-- ==== Sys2Proof/Word.lean ====
section
/-!
DEFINITION. The word types of the encoder block: the byte on the data lines, the 10-bit bus word and the code point.
-/

namespace Sys2Proof

/-- A command word or data byte, `DB7..DB0` (00_scope R5, DATA_W = 8). -/
abbrev Byte := BitVec 8

/-- A bus word `RS ‖ RW ‖ DB7..DB0` (30_encoding R61). -/
abbrev BusWord := BitVec 10

/-- A character: one Unicode code point (00_scope R7, D2). Every code point from 0 to 0x10FFFF is one, surrogates
among them, since the spec makes no exception (91 N16). -/
abbrev CodePoint := Fin 0x110000

end Sys2Proof
end

