-- ==== Sys2Proof/Config.lean ====
section
/-!
DEFINITION. The implementation parameters (00_scope R5): those the spec fixes, and, as constants with no body, those
it leaves OPEN.
-/

namespace Sys2Proof

/-- The delay class of a transaction (40_bus_sequencer R96). -/
inductive DelayClass where
  | short
  | long
  deriving DecidableEq, Repr

/-- The waits of a transaction, named by their parameter (00_scope R5): T_AS, T_PW, T_H and T_EXEC of a class. -/
inductive Wait where
  | tAs
  | tPw
  | tH
  | tExec (cls : DelayClass)
  deriving DecidableEq, Repr

/-- FREE VALUE (log 8). The least duration of each wait, in any unit: OPEN, finite and not negative (R5, D8, U4). -/
opaque Config.minWait : Wait → Nat

/-- FREE VALUE (log 3). The entries of the character table that the spec does not give (R138, D18, U5, U6). -/
opaque Config.charTabRest : List Host.Cell

/-- FREE VALUE (log 7). Which of several held callers is admitted next, at each admission (D23, U9). -/
opaque Config.nextCaller : Nat → Nat

/-- FS_DEFAULT: data_length_8bit, two_line, font_5x10 (R5, R118 (a), D10, C1). -/
def Config.fsDefault : Bool × Bool × Bool := (true, false, false)

/-- DC_DEFAULT: cursor_on, blink_on (R5, R118 (b), D11). -/
def Config.dcDefault : Bool × Bool := (false, false)

/-- EM_DEFAULT: decrement, display_shift (R5, R118 (c), D12). -/
def Config.emDefault : Bool × Bool := (false, false)

end Sys2Proof
end

