-- ==== Sys2Proof/Machine/Memory.lean ====
section
/-!
DEFINITION. The one memory the block reads: the character-table space (20_memory R40, R41), a list of cells from a
code point to a byte in one canonical form.
-/

namespace Sys2Proof.Machine

/-- A table of cells (code point, controller code). A code point that no cell lists reads as absent. -/
abbrev Memory := List Host.Cell

/-- The canonical form: keys strictly rising, every key a code point. (An unlisted key reads as absent, so no cell can
equal what an unlisted key reads as.) -/
abbrev Memory.wf (m : Memory) : Prop :=
  m.Pairwise (fun x y => x.1 < y.1) ∧ ∀ cell ∈ m, cell.1 < 0x110000

/-- `TabRead` (20_memory R41): the code at a key, or absent. -/
def Memory.read : Memory → Nat → Option Byte
  | [], _ => none
  | (k, b) :: m, a => if k = a then some b else Memory.read m a

/-- The table with one entry set, in canonical form. Used only to build the table at construction; no operation
writes it (10_state R26). -/
def Memory.insert : Memory → Nat → Byte → Memory
  | [], k, b => [(k, b)]
  | (k', b') :: m, k, b =>
    if k < k' then (k, b) :: (k', b') :: m
    else if k = k' then (k, b) :: m
    else (k', b') :: Memory.insert m k b

/-- The canonical table of a list of cells, of which the first for a key counts; keys that are no code points are
left out. -/
def Memory.ofCells (cells : List Host.Cell) : Memory :=
  (cells.filter fun cell => cell.1 < 0x110000).foldr (fun cell m => Memory.insert m cell.1 cell.2) []

/-- CHARTAB (42_data_and_text R138): 'A' (U+0041) is 0x41; every other entry is the free value of log 3. -/
def charTabAtConstruction : Memory :=
  Memory.insert (Memory.ofCells Config.charTabRest) 0x41 0x41#8

end Sys2Proof.Machine
end

