-- ==== Sys2Proof/Syntax.lean ====
section
/-!
DEFINITION. The nine operations a client can issue (30_encoding R60), one constructor per row of the operation table.
-/

namespace Sys2Proof

/-- A request: an operation's name and its operands (30_encoding R60, D1). `address` and `value` are unbounded
integers; the operation's own range check rejects what does not fit (00_scope R7). -/
inductive Instr where
  /-- clear_display (R110) -/
  | clearDisplay
  /-- return_home (R111) -/
  | returnHome
  /-- entry_mode_set (R112) -/
  | entryModeSet (decrement displayShift : Bool)
  /-- display_control (R113) -/
  | displayControl (displayOn cursorOn blinkOn : Bool)
  /-- function_set (R114) -/
  | functionSet (dataLength8bit twoLine font5x10 : Bool)
  /-- set_ddram_address (R115) -/
  | setDdramAddress (address : Int)
  /-- write_data (R130) -/
  | writeData (value : Int)
  /-- resolve_char (R131) -/
  | resolveChar (char : CodePoint)
  /-- write_text (R132) -/
  | writeText (text : List CodePoint) (twoLine : Bool)
  deriving DecidableEq, Repr

end Sys2Proof
end

