-- ==== Sys2Proof/Machine/State.lean ====
section
/-!
DEFINITION. The state of the encoder block as plain data: the line register, the sequencer, the mutual exclusion, the
character table, the pins, the held requests and the observations the spec defines over a run; and the state right
after construction, which is reset.
-/

namespace Sys2Proof.Machine

/-- The names of the eleven bus lines (10_state R20). -/
inductive Line where
  | rs | rw | e | db0 | db1 | db2 | db3 | db4 | db5 | db6 | db7
  deriving DecidableEq, Repr

/-- The line register L (10_state R20). Ten lines hold "no value" until the first transaction writes them: `none` is
the reset state the spec itself gives them (R32, D6; log 2), and nothing in the block reads a line (R21). -/
structure Lines where
  rs : Option Bool
  rw : Option Bool
  e : Bool
  db7 : Option Bool
  db6 : Option Bool
  db5 : Option Bool
  db4 : Option Bool
  db3 : Option Bool
  db2 : Option Bool
  db1 : Option Bool
  db0 : Option Bool
  deriving DecidableEq, Repr

/-- An entry of the T-trace: one latched bus word (00_scope R8). -/
structure Txn where
  rs : Bool
  rw : Bool
  d : Byte
  deriving DecidableEq, Repr

/-- A call `BusWrite(rs, rw, d, cls)` of the primitive (40_bus_sequencer R90). -/
structure Call where
  rs : Bool
  rw : Bool
  d : Byte
  cls : DelayClass
  deriving DecidableEq, Repr

/-- The sequencer's phase, with the transient values of the transaction in flight (10_state R24, 40 R97). -/
inductive Phase where
  | idle
  | setup (c : Call)
  | eHigh (c : Call)
  | eLow (c : Call)
  | wait (c : Call)
  deriving DecidableEq, Repr

/-- The operation in progress: which one, the transactions it has still to start (10_state R27) and the phase (R24). -/
structure Job where
  op : Instr
  todo : List Call
  phase : Phase
  deriving DecidableEq, Repr

/-- "Either constructed and idle, constructed and busy, or not constructed" (60_exceptions R168). -/
inductive Block where
  | absent
  | idle
  | busy (job : Job)
  deriving DecidableEq, Repr

/-- One event at the pins: a new value of the line register, or a wait (40_bus_sequencer R100). -/
inductive Event where
  | drive (lines : Lines)
  | wait (w : Wait)
  deriving DecidableEq, Repr

/-- The four errors (60_exceptions R150), identified by name (R157) and carrying nothing else (R158). -/
inductive OpError where
  | rangeError
  | lookupError
  | notImplemented
  | constructionFailure
  deriving DecidableEq, Repr

/-- The outcome a caller receives (00_scope section 8): ok, ok with a code (resolve_char), or one error. -/
inductive Answer where
  | ok
  | okCode (code : Byte)
  | error (err : OpError)
  deriving DecidableEq, Repr

/-- What is reported to the caller of an operation (60_exceptions R150). -/
structure Report where
  op : Instr
  answer : Answer
  deriving DecidableEq, Repr

/-- PIN_MAP: the pin identifier of each line (10_state R23). -/
structure PinMap where
  rs : Nat
  rw : Nat
  e : Nat
  db0 : Nat
  db1 : Nat
  db2 : Nat
  db3 : Nat
  db4 : Nat
  db5 : Nat
  db6 : Nat
  db7 : Nat
  deriving DecidableEq, Repr

/-- The direction of the eleven pins, set once by the pin layer (10_state R32, R21). -/
inductive PinDir where
  | input
  | output
  deriving DecidableEq, Repr

/-- The block has no fault: its four errors are outcomes after which it goes on (60_exceptions R156), and it has no
stuck state (70 R196). So this type has no constructor, which is safe: nothing can be proved to stop that goes on. -/
inductive Fault where
  deriving DecidableEq, Repr

/-- Why the model gives a step no meaning. -/
inductive Refusal where
  /-- Raised by an arm of `exec` that has no meaning yet; no arm does. Safe. -/
  | notModelled (mnemonic : String)
  /-- Raised by every operation and step on a block that was not constructed (93 U10: "A model refuses every operation
  on a block that was not constructed"). Safe. -/
  | notConstructed
  /-- Raised by the sequencer on a call with `read_write = true`, which no operation makes (40_bus_sequencer R99,
  U1). Safe. -/
  | readTransaction
  deriving DecidableEq, Repr

/-- The whole state. -/
structure State where
  /-- the line register L (10_state R20) -/
  lines : Lines
  /-- not constructed, idle, or busy with an operation in progress (10_state R24, R25, R27; 60 R168) -/
  block : Block
  /-- CHARTAB (10_state R26) -/
  charTab : Memory
  /-- PIN_MAP (10_state R23) -/
  pinMap : PinMap
  /-- the direction of the eleven pins (10_state R32) -/
  pinDir : PinDir
  /-- requests issued and not yet admitted, oldest first (70 R197; log 6) -/
  waiting : List Instr
  /-- the model's own counter of admissions, argument of the free choice among held callers (U9; log 7) -/
  admissions : Nat
  /-- the L-trace with its waits, oldest first (40 R100; log 5) -/
  events : List Event
  /-- the T-trace, oldest first (40 R100; log 5) -/
  tTrace : List Txn
  /-- the outcomes reported, oldest first (00_scope R8; log 5); nothing in the block reads it (R28) -/
  reports : List Report
  deriving DecidableEq, Repr

/-- The lines after construction (10_state R32): E idle, the others without a value. -/
def Lines.unwritten : Lines :=
  { rs := none, rw := none, e := false, db7 := none, db6 := none, db5 := none, db4 := none,
    db3 := none, db2 := none, db1 := none, db0 := none }

/-- The pin identifiers of the client whose block `State.reset` is: 1 to 11 in the order RS, RW, E, data0..data7
(DESIGN CHOICE, log 4). -/
def PinMap.first : PinMap :=
  { rs := 1, rw := 2, e := 3, db0 := 4, db1 := 5, db2 := 6, db3 := 7, db4 := 8, db5 := 9, db6 := 10, db7 := 11 }

/-- The state right after a successful construction (10_state R32, 70 R180, R183). -/
def State.reset : State :=
  { lines := Lines.unwritten, block := .idle, charTab := charTabAtConstruction, pinMap := PinMap.first,
    pinDir := .output, waiting := [], admissions := 0, events := [], tTrace := [], reports := [] }

/-- `busy` (10_state R25): true from the acceptance of an operation until it has ended. -/
def State.busy (s : State) : Bool :=
  match s.block with
  | .busy _ => true
  | .idle | .absent => false

/-- The sequencer's phase (10_state R24): IDLE whenever no operation is in progress. -/
def State.phase (s : State) : Phase :=
  match s.block with
  | .busy job => job.phase
  | .idle | .absent => .idle

/-- The L-trace entry of an event: none for a wait (40_bus_sequencer R100). -/
def Event.driven : Event → Option Lines
  | .drive lines => some lines
  | .wait _ => none

/-- The L-trace (00_scope R8, 40 R100): the values driven, without the waits. -/
def State.lTrace (s : State) : List Lines := s.events.filterMap Event.driven

/-- The read of a line (00_scope section 8, `L[n]`): only statements use it; the block never reads a line (R21). -/
def Lines.get (l : Lines) : Line → Option Bool
  | .rs => l.rs
  | .rw => l.rw
  | .e => some l.e
  | .db0 => l.db0
  | .db1 => l.db1
  | .db2 => l.db2
  | .db3 => l.db3
  | .db4 => l.db4
  | .db5 => l.db5
  | .db6 => l.db6
  | .db7 => l.db7

end Sys2Proof.Machine
end

