-- ==== Sys2Proof/Machine/Flags.lean ====
section
/-!
DEFINITION. The block has no flag, condition code or stored error (10_state R28). What stands in their place is the
outcome of an operation, reported to its caller; this file is the one home of that report.
-/

namespace Sys2Proof.Machine

/-- The outcome of an operation is reported to its caller and kept nowhere in the block (60_exceptions R150). -/
def State.report (op : Instr) (answer : Answer) (s : State) : State :=
  { s with reports := s.reports ++ [{ op := op, answer := answer }] }

/-- The error's code on a status port, if an implementation has one (60_exceptions R157, D17). -/
def OpError.code : OpError → Nat
  | .rangeError => 1
  | .lookupError => 2
  | .notImplemented => 3
  | .constructionFailure => 4

/-- The code of an outcome on a status port: 0 is no error (60_exceptions R157, D17). -/
def Answer.status : Answer → Nat
  | .ok => 0
  | .okCode _ => 0
  | .error err => err.code

end Sys2Proof.Machine
end

