-- ==== Sys2Proof/WellFormed.lean ====
section
/-!
DEFINITION. Which operations pass the checks that their operands alone decide (30_encoding R60, column
"Constraint checked"). An operation that does not is no illegal request: it has the error R150 gives it.
-/

namespace Sys2Proof

/-- The operand checks of R60 that need no character table: the address range (R66), the data range (R67) and the
one-line restriction of write_text (R133). Table membership is a check on the block's table, not on the operation. -/
def Instr.wellFormed : Instr → Bool
  | .clearDisplay => true
  | .returnHome => true
  | .entryModeSet _ _ => true
  | .displayControl _ _ _ => true
  | .functionSet _ _ _ => true
  | .setDdramAddress address => decide (0 ≤ address ∧ address ≤ 127)
  | .writeData value => decide (0 ≤ value ∧ value ≤ 255)
  | .resolveChar _ => true
  | .writeText _ twoLine => !twoLine

/-- The seven operations that produce exactly one bus word when they succeed (R60). -/
def Instr.singleWord : Instr → Bool
  | .clearDisplay => true
  | .returnHome => true
  | .entryModeSet _ _ => true
  | .displayControl _ _ _ => true
  | .functionSet _ _ _ => true
  | .setDdramAddress _ => true
  | .writeData _ => true
  | .resolveChar _ => false
  | .writeText _ _ => false

end Sys2Proof
end

