-- ==== Sys2Proof/Decode.lean ====
section
/-!
DEFINITION. The bus-word encoding: the command words of R63, the operand fields of R66 and R67, the decoder of R71
(total on the 1024 words) and, after it, the encoder.
-/

namespace Sys2Proof

/-- Why a bus word is no operation's (R70, R73). The block never produces such a word, and this model gives it no
meaning on the controller's side. -/
inductive Unproduced where
  /-- RW = 1: 512 words -/
  | readWriteSet
  /-- the leading 1 of an instruction word is DB6: 0x40 to 0x7F -/
  | leadingDb6
  /-- 0x20 to 0x3F with DB1, DB0 not both 0 -/
  | functionSetLowBits
  /-- the leading 1 of an instruction word is DB4: 0x10 to 0x1F -/
  | leadingDb4
  /-- 0x00 and 0x03 -/
  | noRow
  deriving DecidableEq, Repr

/-- The decoder of R71, naming the reason where R71 answers `none`. -/
def decodeNamed (w : BusWord) : Except Unproduced Instr :=
  let c : Byte := w.extractLsb' 0 8
  if w.getLsbD 8 then .error .readWriteSet
  else if w.getLsbD 9 then .ok (.writeData c.toNat)
  else if c.getLsbD 7 then .ok (.setDdramAddress (c.extractLsb' 0 7).toNat)
  else if c.extractLsb' 6 2 = 0b01#2 then .error .leadingDb6
  else if c.extractLsb' 5 3 = 0b001#3 then
    if c.extractLsb' 0 2 = 0b00#2 then .ok (.functionSet (c.getLsbD 4) (c.getLsbD 3) (c.getLsbD 2))
    else .error .functionSetLowBits
  else if c.extractLsb' 4 4 = 0b0001#4 then .error .leadingDb4
  else if c.extractLsb' 3 5 = 0b00001#5 then .ok (.displayControl (c.getLsbD 2) (c.getLsbD 1) (c.getLsbD 0))
  else if c.extractLsb' 2 6 = 0b000001#6 then .ok (.entryModeSet (!c.getLsbD 1) (c.getLsbD 0))
  else if c = 0b00000010#8 then .ok .returnHome
  else if c = 0b00000001#8 then .ok .clearDisplay
  else .error .noRow

/-- `decode : bus word -> operation or none` (R71). -/
def decode (w : BusWord) : Option Instr := (decodeNamed w).toOption

/-! The encoder, from the table of R63. -/

/-- `W[9] = RS`, `W[8] = RW`, `W[7:0] = DB7..DB0` (R61). -/
def busWord (rs rw : Bool) (d : Byte) : BusWord := BitVec.ofBool rs ++ BitVec.ofBool rw ++ d

/-- Row clear_display of R63. -/
def cmdClearDisplay : Byte := 0b00000001#8

/-- Row return_home of R63. -/
def cmdReturnHome : Byte := 0b00000010#8

/-- Row entry_mode_set of R63; bit 1 is the inverted `decrement` (R65). -/
def cmdEntryModeSet (decrement displayShift : Bool) : Byte :=
  0b000001#6 ++ BitVec.ofBool (!decrement) ++ BitVec.ofBool displayShift

/-- Row display_control of R63. -/
def cmdDisplayControl (displayOn cursorOn blinkOn : Bool) : Byte :=
  0b00001#5 ++ BitVec.ofBool displayOn ++ BitVec.ofBool cursorOn ++ BitVec.ofBool blinkOn

/-- Row function_set of R63; bits 1 and 0 are 0 (C7). -/
def cmdFunctionSet (dataLength8bit twoLine font5x10 : Bool) : Byte :=
  0b001#3 ++ BitVec.ofBool dataLength8bit ++ BitVec.ofBool twoLine ++ BitVec.ofBool font5x10 ++ 0b00#2

/-- Row set_ddram_address of R63: `1 ‖ address[6:0]` (R66, C2). -/
def cmdSetDdramAddress (field : BitVec 7) : Byte := 0b1#1 ++ field

/-- The 7-bit address field, or nothing where the range check of R66 fails. -/
def addressField (address : Int) : Option (BitVec 7) :=
  if 0 ≤ address ∧ address ≤ 127 then some (BitVec.ofInt 7 address) else none

/-- The data byte `value[7:0]`, or nothing where the range check of R67 fails. -/
def dataField (value : Int) : Option Byte :=
  if 0 ≤ value ∧ value ≤ 255 then some (BitVec.ofInt 8 value) else none

/-- The one bus word of an operation: none for resolve_char, write_text and an operand out of range (R60, R63). -/
def encode : Instr → Option BusWord
  | .clearDisplay => some (busWord false false cmdClearDisplay)
  | .returnHome => some (busWord false false cmdReturnHome)
  | .entryModeSet decrement displayShift => some (busWord false false (cmdEntryModeSet decrement displayShift))
  | .displayControl displayOn cursorOn blinkOn => some (busWord false false (cmdDisplayControl displayOn cursorOn blinkOn))
  | .functionSet dataLength8bit twoLine font5x10 => some (busWord false false (cmdFunctionSet dataLength8bit twoLine font5x10))
  | .setDdramAddress address => (addressField address).map fun field => busWord false false (cmdSetDdramAddress field)
  | .writeData value => (dataField value).map fun d => busWord true false d
  | .resolveChar _ => none
  | .writeText _ _ => none

/-- The operation of a bus word given as a number, of which the low `nbits` bits are given and the others are 0. -/
def decodeTableWord (nbits w : Nat) : Option Instr :=
  let v := w % 2 ^ nbits
  if v < 1024 then decode (BitVec.ofNat 10 v) else none

end Sys2Proof
end

