-- ==== Sys2Proof/Machine/Operands.lean ====
section
/-!
DEFINITION. Operand forms: the calls of the primitive an operation makes of its operands, the resolution of a text,
the default operands. (The range checks and the command words are in Decode.lean, where the encoder uses them too.)
-/

namespace Sys2Proof.Machine

/-- An instruction-register write: RS false, RW false (41_instruction_commands R116). -/
def irCall (d : Byte) (cls : DelayClass) : Call := { rs := false, rw := false, d := d, cls := cls }

/-- A data-register write: RS true, RW false, class SHORT (42_data_and_text R130). -/
def drCall (d : Byte) : Call := { rs := true, rw := false, d := d, cls := .short }

/-- Every character of a text resolved in input order, or nothing when one is not a key (42_data_and_text R133). -/
def resolveAll (table : Memory) : List CodePoint → Option (List Byte)
  | [] => some []
  | c :: text =>
    match Memory.read table c.val with
    | none => none
    | some code =>
      match resolveAll table text with
      | none => none
      | some codes => some (code :: codes)

/-- The five calls every write_text starts with (42_data_and_text R132, R134), computed from the defaults of
R118: function_set with `two_line = false`, display_control with `display_on = true`. -/
def textPreamble : List Call :=
  [irCall cmdClearDisplay .long,
   irCall (cmdSetDdramAddress 0#7) .short,
   irCall (cmdFunctionSet Config.fsDefault.1 false Config.fsDefault.2.2) .short,
   irCall (cmdDisplayControl true Config.dcDefault.1 Config.dcDefault.2) .short,
   irCall (cmdEntryModeSet Config.emDefault.1 Config.emDefault.2) .short]

/-- `function_set()` with all operands left out (R118 (a)). -/
def functionSetDefault : Instr := .functionSet Config.fsDefault.1 Config.fsDefault.2.1 Config.fsDefault.2.2

/-- `display_control(display_on)` with the other operands left out (R118 (b)). -/
def displayControlDefault (displayOn : Bool) : Instr :=
  .displayControl displayOn Config.dcDefault.1 Config.dcDefault.2

/-- `entry_mode_set()` with all operands left out (R118 (c)). -/
def entryModeSetDefault : Instr := .entryModeSet Config.emDefault.1 Config.emDefault.2

/-- `write_text(text)` with `two_line` left out (R118 (d), D13). -/
def writeTextDefault (text : List CodePoint) : Instr := .writeText text false

end Sys2Proof.Machine
end

