-- ==== Sys2Proof/Machine/Ops.lean ====
section
/-!
DEFINITION. The named operations on the state: driving the lines, recording waits and latched words, raising an error,
holding and admitting requests. Nothing else writes a field.
-/

namespace Sys2Proof.Machine

/-- The upstream bit extraction, kept as the spec keeps it: the masked byte is nonzero (20_memory R46). -/
def maskBit (d : Byte) (i : Nat) : Bool := (d &&& BitVec.twoPow 8 i) != 0#8

/-- All eleven lines at once: bit i of the byte on line DBi (40_bus_sequencer R91, 20_memory R45). -/
def drivenLines (rs rw e : Bool) (d : Byte) : Lines :=
  { rs := some rs, rw := some rw, e := e,
    db7 := some (maskBit d 7), db6 := some (maskBit d 6), db5 := some (maskBit d 5), db4 := some (maskBit d 4),
    db3 := some (maskBit d 3), db2 := some (maskBit d 2), db1 := some (maskBit d 1), db0 := some (maskBit d 0) }

/-- A write of the line register, seen at the pins as one new value (40_bus_sequencer R100, R101). -/
def State.drive (lines : Lines) (s : State) : State :=
  { s with lines := lines, events := s.events ++ [.drive lines] }

/-- `L[E] <- e`, the other lines as they are (40_bus_sequencer R92, R93). -/
def State.driveE (e : Bool) (s : State) : State := s.drive { s.lines with e := e }

/-- `wait(T)`: time passes and no line changes (00_scope section 8). -/
def State.pause (w : Wait) (s : State) : State := { s with events := s.events ++ [.wait w] }

/-- The controller latches the word of a call: one entry of the T-trace (40_bus_sequencer R93, R100). -/
def State.latch (c : Call) (s : State) : State :=
  { s with tTrace := s.tTrace ++ [{ rs := c.rs, rw := c.rw, d := c.d }] }

/-- The sequencer and the mutual exclusion move on (10_state R24, R25). -/
def State.withBlock (b : Block) (s : State) : State := { s with block := b }

/-- A caller's request is held (10_state R25, 70 R197). -/
def State.hold (op : Instr) (s : State) : State := { s with waiting := s.waiting ++ [op] }

/-- Raising an error, the one operation for all of them (60_exceptions R155, R156, R161): the operation ends, its
caller is told, and every component of the block is as it was. No handler is entered, so there is no return (R162). -/
def State.raise (op : Instr) (err : OpError) (s : State) : State := s.report op (.error err)

/-- An operation is accepted only when the block is free; while another is in progress its caller is held
(10_state R25, D23); on a block that was not constructed it is refused (93 U10). -/
def State.whenFree (op : Instr) (s : State) (body : State → Host.Outcome State Fault Refusal) :
    Host.Outcome State Fault Refusal :=
  match s.block with
  | .absent => .refused .notConstructed
  | .busy _ => .next (s.hold op)
  | .idle => body s

/-- The k-th of a list with the list without it. -/
def takeAt : List Instr → Nat → Option (Instr × List Instr)
  | [], _ => none
  | i :: rest, 0 => some (i, rest)
  | i :: rest, k + 1 => (takeAt rest k).map fun p => (p.1, i :: p.2)

/-- The next request admitted by a free block: the only one held, or, of several, the one the free value picks
(20_memory R53, 93 U9; log 7). -/
def State.admission (s : State) : Option (Instr × State) :=
  match s.waiting with
  | [] => none
  | [i] => some (i, { s with waiting := [], admissions := s.admissions + 1 })
  | i :: j :: rest =>
    (takeAt (i :: j :: rest) (Config.nextCaller s.admissions % (rest.length + 2))).map fun p =>
      (p.1, { s with waiting := p.2, admissions := s.admissions + 1 })

/-- A free block that holds exactly one request (what `State.withFetchWord` places). -/
def State.offer (op : Instr) (s : State) : State := { s with block := .idle, waiting := [op] }

/-- What the pin layer sees of the lines (40_bus_sequencer R102): each line's level on its pin PIN_MAP(n). -/
def PinMap.pin (p : PinMap) : Line → Nat
  | .rs => p.rs
  | .rw => p.rw
  | .e => p.e
  | .db0 => p.db0
  | .db1 => p.db1
  | .db2 => p.db2
  | .db3 => p.db3
  | .db4 => p.db4
  | .db5 => p.db5
  | .db6 => p.db6
  | .db7 => p.db7

/-- The eleven lines in the order of the construction interface (20_memory R45, D27). -/
def Line.all : List Line := [.rs, .rw, .e, .db0, .db1, .db2, .db3, .db4, .db5, .db6, .db7]

/-- The level last set on a pin: that of the line bound to it; nothing for a pin of no line or a line without a
value (40_bus_sequencer R102, 10_state R23). -/
def State.pinLevel (s : State) (pin : Nat) : Option Bool :=
  match Line.all.find? (fun n => s.pinMap.pin n == pin) with
  | none => none
  | some n => s.lines.get n

end Sys2Proof.Machine
end

