-- ==== Sys2Proof/Machine/Sequencer.lean ====
section
/-!
DEFINITION. The Bus Sequencer: its state machine (40_bus_sequencer R97), one transition a call of `tick`, and the run
of an accepted operation to its end. No other definition writes a line (R101).
-/

namespace Sys2Proof.Machine

/-- IDLE to SETUP: the call of the primitive writes all eleven lines, E idle (R91). A call with RW true is refused
(R99). -/
def startCall (job : Job) (c : Call) (rest : List Call) (s : State) : Host.Outcome State Fault Refusal :=
  if c.rw then .refused .readTransaction
  else .next ((s.drive (drivenLines c.rs c.rw false c.d)).withBlock (.busy { job with todo := rest, phase := .setup c }))

/-- SETUP to E_HIGH, after T_AS (R92). -/
def raiseEnable (job : Job) (c : Call) (s : State) : State :=
  ((s.pause .tAs).driveE true).withBlock (.busy { job with phase := .eHigh c })

/-- E_HIGH to E_LOW, after T_PW: the word is latched (R93, R100). -/
def lowerEnable (job : Job) (c : Call) (s : State) : State :=
  (((s.pause .tPw).driveE false).latch c).withBlock (.busy { job with phase := .eLow c })

/-- E_LOW to WAIT, after T_H (R94, R97). -/
def startWait (job : Job) (c : Call) (s : State) : State :=
  (s.pause .tH).withBlock (.busy { job with phase := .wait c })

/-- WAIT to IDLE, after T_EXEC of the call's class (R96). -/
def endCall (job : Job) (c : Call) (s : State) : State :=
  (s.pause (.tExec c.cls)).withBlock (.busy { job with phase := .idle })

/-- The end of the operation in progress: its last wait is over, the block is free again and the caller is told
(10_state R25). -/
def endJob (job : Job) (s : State) : State := (s.report job.op .ok).withBlock .idle

/-- One transition of the sequencer (R97). With no operation in progress nothing happens (R97, row IDLE, no call). -/
def tick (s : State) : Host.Outcome State Fault Refusal :=
  match s.block with
  | .absent => .refused .notConstructed
  | .idle => .next s
  | .busy job =>
    match job.phase with
    | .idle =>
      match job.todo with
      | [] => .next (endJob job s)
      | c :: rest => startCall job c rest s
    | .setup c => .next (raiseEnable job c s)
    | .eHigh c => .next (lowerEnable job c s)
    | .eLow c => .next (startWait job c s)
    | .wait c => .next (endCall job c s)

/-- A number of transitions, stopping at a refusal. -/
def ticks : Nat → State → Host.Outcome State Fault Refusal
  | 0, s => .next s
  | n + 1, s =>
    match tick s with
    | .next s' => ticks n s'
    | .fault r => .fault r
    | .refused r => .refused r

/-- An accepted operation whose checks have passed: its calls, none started. -/
def State.accept (op : Instr) (calls : List Call) (s : State) : State :=
  s.withBlock (.busy { op := op, todo := calls, phase := .idle })

/-- The transitions an operation of n calls takes: five a call and one to end (R97). -/
def jobLength (calls : List Call) : Nat := 5 * calls.length + 1

/-- An accepted operation runs to its end (00_scope R4, 40 R97): every call through all its phases, in order. -/
def transmit (op : Instr) (calls : List Call) (s : State) : Host.Outcome State Fault Refusal :=
  ticks (jobLength calls) (s.accept op calls)

end Sys2Proof.Machine
end

