-- ==== Sys2Proof/Machine/DataText.lean ====
section
/-!
DEFINITION. The data write, the character resolution and the text write (42_data_and_text R130 to R141).
-/

namespace Sys2Proof.Machine

/-- write_data (R130): RangeError before any line changes when the value is not in 0..255. -/
def execWriteData (value : Int) (s : State) : Host.Outcome State Fault Refusal :=
  s.whenFree (.writeData value) fun s =>
    match dataField value with
    | none => .next (s.raise (.writeData value) .rangeError)
    | some d => transmit (.writeData value) [drCall d] s

/-- resolve_char (R131): the code, or LookupError; no line changes and nothing is substituted (R137). -/
def execResolveChar (char : CodePoint) (s : State) : Host.Outcome State Fault Refusal :=
  s.whenFree (.resolveChar char) fun s =>
    match Memory.read s.charTab char.val with
    | none => .next (s.raise (.resolveChar char) .lookupError)
    | some code => .next (s.report (.resolveChar char) (.okCode code))

/-- write_text (R132): the two checks in the order of R133, then the five fixed words and one data word a character. -/
def execWriteText (text : List CodePoint) (twoLine : Bool) (s : State) : Host.Outcome State Fault Refusal :=
  s.whenFree (.writeText text twoLine) fun s =>
    if twoLine then .next (s.raise (.writeText text twoLine) .notImplemented)
    else
      match resolveAll s.charTab text with
      | none => .next (s.raise (.writeText text twoLine) .lookupError)
      | some codes => transmit (.writeText text twoLine) (textPreamble ++ codes.map drCall) s

end Sys2Proof.Machine
end

