-- ==== Sys2Proof/Machine/InstructionCommands.lean ====
section
/-!
DEFINITION. The six instruction-register operations (41_instruction_commands R110 to R115).
-/

namespace Sys2Proof.Machine

/-- clear_display (R110). -/
def execClearDisplay (s : State) : Host.Outcome State Fault Refusal :=
  s.whenFree .clearDisplay fun s => transmit .clearDisplay [irCall cmdClearDisplay .long] s

/-- return_home (R111). -/
def execReturnHome (s : State) : Host.Outcome State Fault Refusal :=
  s.whenFree .returnHome fun s => transmit .returnHome [irCall cmdReturnHome .long] s

/-- entry_mode_set (R112). -/
def execEntryModeSet (decrement displayShift : Bool) (s : State) : Host.Outcome State Fault Refusal :=
  s.whenFree (.entryModeSet decrement displayShift) fun s =>
    transmit (.entryModeSet decrement displayShift) [irCall (cmdEntryModeSet decrement displayShift) .short] s

/-- display_control (R113). -/
def execDisplayControl (displayOn cursorOn blinkOn : Bool) (s : State) : Host.Outcome State Fault Refusal :=
  s.whenFree (.displayControl displayOn cursorOn blinkOn) fun s =>
    transmit (.displayControl displayOn cursorOn blinkOn) [irCall (cmdDisplayControl displayOn cursorOn blinkOn) .short] s

/-- function_set (R114); no operand combination is refused (R117). -/
def execFunctionSet (dataLength8bit twoLine font5x10 : Bool) (s : State) : Host.Outcome State Fault Refusal :=
  s.whenFree (.functionSet dataLength8bit twoLine font5x10) fun s =>
    transmit (.functionSet dataLength8bit twoLine font5x10) [irCall (cmdFunctionSet dataLength8bit twoLine font5x10) .short] s

/-- set_ddram_address (R115): RangeError before any line changes when the address is not in 0..127. -/
def execSetDdramAddress (address : Int) (s : State) : Host.Outcome State Fault Refusal :=
  s.whenFree (.setDdramAddress address) fun s =>
    match addressField address with
    | none => .next (s.raise (.setDdramAddress address) .rangeError)
    | some field => transmit (.setDdramAddress address) [irCall (cmdSetDdramAddress field) .short] s

end Sys2Proof.Machine
end

