-- ==== Sys2Proof/Machine/Dispatch.lean ====
section
/-! DEFINITION. One arm per operation of 30_encoding R60. -/

namespace Sys2Proof.Machine

def exec (i : Instr) (s : State) : Host.Outcome State Fault Refusal :=
  match i with
  | .clearDisplay => Sys2Proof.Machine.execClearDisplay s
  | .returnHome => Sys2Proof.Machine.execReturnHome s
  | .entryModeSet decrement displayShift => Sys2Proof.Machine.execEntryModeSet decrement displayShift s
  | .displayControl displayOn cursorOn blinkOn => Sys2Proof.Machine.execDisplayControl displayOn cursorOn blinkOn s
  | .functionSet dataLength8bit twoLine font5x10 => Sys2Proof.Machine.execFunctionSet dataLength8bit twoLine font5x10 s
  | .setDdramAddress address => Sys2Proof.Machine.execSetDdramAddress address s
  | .writeData value => Sys2Proof.Machine.execWriteData value s
  | .resolveChar char => Sys2Proof.Machine.execResolveChar char s
  | .writeText text twoLine => Sys2Proof.Machine.execWriteText text twoLine s

end Sys2Proof.Machine
end

