-- ==== Sys2Proof/Machine/Step.lean ====
section
/-!
DEFINITION. One step of the block: an operation in progress makes the sequencer's next transition (40 R97); a free
block admits a held request and runs it to its end (00_scope R4); a free block with none does nothing (70 R197).
-/

namespace Sys2Proof.Machine

/-- One step. The block fetches no program (10_state R27): its next operation is a client's request (log 6). -/
def step (s : State) : Host.Outcome State Fault Refusal :=
  match s.block with
  | .absent => .refused .notConstructed
  | .busy _ => tick s
  | .idle =>
    match s.admission with
    | none => .next s
    | some (i, s') => exec i s'

/-- `s` with the operation of a bus word as the one request a free block holds, so that the next step runs it. It
stands for a client's issuing that operation, since the block has no stored program (log 6). -/
def State.withFetchWord (s : State) (nbits w : Nat) : State :=
  match decodeTableWord nbits w with
  | none => s
  | some i => s.offer i

end Sys2Proof.Machine
end

