-- ==== Sys2Proof/Machine/Construct.lean ====
section
/-!
DEFINITION. Construction, which is the block's reset (70_reset_and_hazards R180, R181).
-/

namespace Sys2Proof.Machine

/-- What construction leaves: the block or none, what the client is told, and the pins the pin layer was asked to
claim and configure, in order. -/
structure Construction where
  state : State
  answer : Answer
  asked : List Nat
  deriving DecidableEq, Repr

/-- The pin layer is asked for one pin after the other until it refuses one (R180, D21). `claim` answers whether a pin
can be claimed and configured as an output. -/
def claimPins (claim : Nat → Bool) : List Nat → List Nat × Bool
  | [] => ([], true)
  | p :: rest =>
    if claim p then
      let r := claimPins claim rest
      (p :: r.1, r.2)
    else ([p], false)

/-- The binding of exactly eleven identifiers in the order RS, RW, E, data0..data7 (R180, D27). -/
def bindPins : List Nat → Option PinMap
  | [rs, rw, e, d0, d1, d2, d3, d4, d5, d6, d7] =>
    some { rs := rs, rw := rw, e := e, db0 := d0, db1 := d1, db2 := d2, db3 := d3, db4 := d4, db5 := d5, db6 := d6, db7 := d7 }
  | _ => none

/-- No block: what a failed construction leaves (R181, 60_exceptions R154). -/
def noBlock : State := State.reset.withBlock .absent

/-- `construct` (R180): count and distinctness first, then the claims; all or nothing (R181); nothing is sent (R183). -/
def construct (ids : List Nat) (claim : Nat → Bool) : Construction :=
  match bindPins ids with
  | none => { state := noBlock, answer := .error .constructionFailure, asked := [] }
  | some pins =>
    if ids.Nodup then
      let r := claimPins claim ids
      if r.2 then { state := { State.reset with pinMap := pins }, answer := .ok, asked := r.1 }
      else { state := noBlock, answer := .error .constructionFailure, asked := r.1 }
    else { state := noBlock, answer := .error .constructionFailure, asked := [] }

end Sys2Proof.Machine
end

