-- ==== Sys2Proof/Safety.lean ====
section
/-!
DEFINITION. The terms claims are written in: what one transaction shows at the pins, what a run of transactions leaves,
which words are produced, and the invariant of the block. Nothing here is used by the step.
-/

namespace Sys2Proof.Machine

/-- The value of L during a call, with E as given (40_bus_sequencer R91 to R93). -/
def Call.lines (c : Call) (e : Bool) : Lines := drivenLines c.rs c.rw e c.d

/-- The T-trace entry of a call (40_bus_sequencer R100). -/
def Call.txn (c : Call) : Txn := { rs := c.rs, rw := c.rw, d := c.d }

/-- The three L-trace entries of a call, each followed by the waits R100 puts after it. -/
def Call.events (c : Call) : List Event :=
  [.drive (c.lines false), .wait .tAs, .drive (c.lines true), .wait .tPw, .drive (c.lines false), .wait .tH,
   .wait (.tExec c.cls)]

/-- The three L-trace entries of a latched word (40_bus_sequencer R100). -/
def Txn.lines (t : Txn) : List Lines :=
  [drivenLines t.rs t.rw false t.d, drivenLines t.rs t.rw true t.d, drivenLines t.rs t.rw false t.d]

/-- L after a list of calls: the last call's lines with E false (10_state R22), or L as it was. -/
def linesAfter (calls : List Call) (before : Lines) : Lines :=
  match calls.getLast? with
  | none => before
  | some c => c.lines false

/-- The state after an operation that sends `calls` and answers ok: the lines hold the last word, the traces have
grown by every call's entries in order, the caller is told, and the block is free. Every other field is as it was. -/
def State.afterSending (op : Instr) (calls : List Call) (s : State) : State :=
  { s with
    lines := linesAfter calls s.lines
    block := .idle
    events := s.events ++ calls.flatMap Call.events
    tTrace := s.tTrace ++ calls.map Call.txn
    reports := s.reports ++ [{ op := op, answer := .ok }] }

/-- The state after an operation that only reports (60_exceptions R156; resolve_char R131). -/
def State.afterReport (op : Instr) (answer : Answer) (s : State) : State :=
  { s with reports := s.reports ++ [{ op := op, answer := answer }] }

/-- The bus word of a T-trace entry (30_encoding R61). -/
def Txn.word (t : Txn) : BusWord := busWord t.rs t.rw t.d

/-- The word is one of the encoder's image (30_encoding R69). -/
abbrev Txn.produced (t : Txn) : Prop := (decode t.word).isSome = true

/-- The L-trace entries of the transaction in flight that no T-trace entry accounts for yet. -/
def Phase.unlatched : Phase → List Lines
  | .idle => []
  | .setup c => [c.lines false]
  | .eHigh c => [c.lines false, c.lines true]
  | .eLow _ => []
  | .wait _ => []

/-- The call in flight. -/
def Phase.calls : Phase → List Call
  | .idle => []
  | .setup c => [c]
  | .eHigh c => [c]
  | .eLow c => [c]
  | .wait c => [c]

/-- The calls of the operation in progress that are not over. -/
def State.calls (s : State) : List Call :=
  match s.block with
  | .absent => []
  | .idle => []
  | .busy job => job.phase.calls ++ job.todo

/-- The eleven identifiers of a binding, in the order of the construction interface. -/
def PinMap.ids (p : PinMap) : List Nat := Line.all.map p.pin

/-- What holds of a constructed block at reset and after every step. -/
structure State.Inv (s : State) : Prop where
  /-- CHARTAB is in canonical form. -/
  table : Memory.wf s.charTab
  /-- 'A' is a key with code 0x41 (42_data_and_text R138 (b)). -/
  letterA : Memory.read s.charTab 0x41 = some 0x41#8
  /-- The eleven pins are distinct (10_state R23, 70 R180). -/
  pins : s.pinMap.ids.Nodup
  /-- The pins are outputs (10_state R32). -/
  outputs : s.pinDir = .output
  /-- Three L-trace entries for each T-trace entry, and those of the transaction in flight (40 R100). -/
  trace : s.lTrace = s.tTrace.flatMap Txn.lines ++ s.phase.unlatched
  /-- A line keeps the value last written to it (10_state R22). -/
  held : s.lines = s.lTrace.getLastD Lines.unwritten
  /-- Every word latched is one the encoder produces (30_encoding R69, R70). -/
  latched : ∀ t ∈ s.tTrace, t.produced
  /-- Every word still to be latched is one the encoder produces. -/
  pending : ∀ c ∈ s.calls, c.txn.produced

/-- A named, optional property of a table (42_data_and_text R139): a hypothesis, not a fact of the hardware. -/
def AsciiIdentity (table : Memory) : Prop :=
  ∀ c : CodePoint, 0x20 ≤ c.val → c.val ≤ 0x7E → ∀ code, Memory.read table c.val = some code → code.toNat = c.val

/-- The least time a list of events takes (70_reset_and_hazards R195, R196): the sum of its waits. -/
def minTime : List Event → Nat
  | [] => 0
  | .drive _ :: rest => minTime rest
  | .wait w :: rest => Config.minWait w + minTime rest

/-- The wait of an event: none for a drive (40_bus_sequencer R100). -/
def Event.waited : Event → Option Wait
  | .drive _ => none
  | .wait w => some w

/-- The waits of a list of events, in order. -/
def waits (events : List Event) : List Wait := events.filterMap Event.waited

/-- Operations one after the other on a free block, none held in between. -/
def execAll : List Instr → State → Host.Outcome State Fault Refusal
  | [], s => .next s
  | i :: rest, s =>
    match exec i s with
    | .next s' => execAll rest s'
    | .fault r => .fault r
    | .refused r => .refused r

end Sys2Proof.Machine
end

