-- ==== Sys2Proof/Certificates/Slice0/Obligations.lean ====
section
/-!
DEFINITION. The statements for the provers, each a formal reading of a rule of spec/ or of several. A free block is one
with `s.block = .idle`: constructed, no operation in progress (10_state R25, 60_exceptions R168).

Several statements equate the whole next state with `s.afterSending op calls`, which Safety.lean defines without the
sequencer: the lines of the last call with E false, every call's events and T-trace entry in order, one report, all
other fields as they were. That is the frame of the operation as well as its result.
-/

open Sys2Proof Sys2Proof.Machine

/-! Reset and construction. -/

/-- 10_state R32, 70 R182, R183: what construction leaves, as the spec decides it in D6, D7, D22, D23. The pin
identifiers are the model's choice (log 4) and are not stated. -/
def Obligations.ResetIsAnIdleBlockWithUnwrittenLines : Prop :=
  (∀ n : Line, State.reset.lines.get n = if n = .e then some false else none) ∧
  State.reset.phase = .idle ∧ State.reset.busy = false ∧ State.reset.block = .idle ∧
  State.reset.pinDir = .output ∧ State.reset.lTrace = [] ∧ State.reset.tTrace = [] ∧ State.reset.events = [] ∧
  State.reset.waiting = [] ∧ State.reset.reports = [] ∧
  Memory.read State.reset.charTab 0x41 = some 0x41#8

/-- The invariant of Safety.lean holds at reset. Its clause that the eleven pins are distinct rests on the model's
choice of identifiers (log 4). -/
def Obligations.ResetMeetsInvariant : Prop := State.reset.Inv

/-- 70 R180, R181, 60 R154 with D21: construction succeeds exactly for eleven distinct identifiers that the pin layer
grants; it binds them in the order RS, RW, E, data0..data7 and leaves the reset state; otherwise there is no block,
and the pin layer is asked for nothing when the identifiers are not eleven distinct ones. -/
def Obligations.ConstructionIsAllOrNothing : Prop :=
  ∀ (ids : List Nat) (claim : Nat → Bool),
    (ids.length = 11 → ids.Nodup → (∀ p ∈ ids, claim p = true) →
      ∃ pins : PinMap, pins.ids = ids ∧
        construct ids claim = { state := { State.reset with pinMap := pins }, answer := .ok, asked := ids }) ∧
    (¬(ids.length = 11 ∧ ids.Nodup ∧ ∀ p ∈ ids, claim p = true) →
      (construct ids claim).state.block = .absent ∧
      (construct ids claim).answer = .error .constructionFailure ∧
      (construct ids claim).state.events = [] ∧
      (¬(ids.length = 11 ∧ ids.Nodup) → (construct ids claim).asked = []))

/-- 93 U10: on a block that was not constructed every operation and every step is refused, by that name. -/
def Obligations.UnconstructedBlockRefuses : Prop :=
  ∀ s : State, s.block = .absent →
    step s = .refused .notConstructed ∧ ∀ i : Instr, exec i s = .refused .notConstructed

/-! Encoding. -/

/-- Words written out from the patterns of 30_encoding R63 and the vectors of 95 section 2.6, with the operation each
stands for, and words that no operation produces. -/
def Obligations.DecodeReadsWrittenOutWords : Prop :=
  decode 0b0000000001#10 = some .clearDisplay ∧
  decode 0b0000000010#10 = some .returnHome ∧
  decode 0b0000000101#10 = some (.entryModeSet true true) ∧
  decode 0b0000000110#10 = some (.entryModeSet false false) ∧
  decode 0b0000001100#10 = some (.displayControl true false false) ∧
  decode 0b0000111000#10 = some (.functionSet true true false) ∧
  decode 0b0011000000#10 = some (.setDdramAddress 64) ∧
  decode 0b1001000001#10 = some (.writeData 0x41) ∧
  decode 0b0000000000#10 = none ∧ decode 0b0000000011#10 = none ∧ decode 0b0000010000#10 = none ∧
  decode 0b0000100001#10 = none ∧ decode 0b0001000000#10 = none ∧ decode 0b0100000000#10 = none

/-- 30_encoding R65: bit 1 of the entry-mode word is the negation of `decrement`, and the source's two literals. -/
def Obligations.EntryModeBitIsInverted : Prop :=
  (∀ decrement displayShift : Bool, ∃ w, encode (.entryModeSet decrement displayShift) = some w ∧
    w.getLsbD 1 = !decrement) ∧
  encode (.entryModeSet false false) = some 0b0000000110#10 ∧
  encode (.entryModeSet true true) = some 0b0000000101#10

/-- 30_encoding R66: an address out of 0..127 fails with RangeError and forms no word; one in range forms the command
word `128 + address`, `0x80 OR address`, bit 7 = 1 and the low seven bits the address. -/
def Obligations.AddressFieldIsExactOrRangeError : Prop :=
  ∀ a : Int,
    (a < 0 ∨ 127 < a → encode (.setDdramAddress a) = none ∧
      ∀ s : State, s.block = .idle →
        exec (.setDdramAddress a) s = .next (s.afterReport (.setDdramAddress a) (.error .rangeError))) ∧
    (0 ≤ a ∧ a ≤ 127 → ∃ d : Byte, encode (.setDdramAddress a) = some (busWord false false d) ∧
      (d.toNat : Int) = 128 + a ∧ d = 0x80#8 ||| BitVec.ofInt 8 a ∧
      d.getLsbD 7 = true ∧ ((d.extractLsb' 0 7).toNat : Int) = a)

/-- 30_encoding R67: a value out of 0..255 fails with RangeError and forms no word; one in range is sent verbatim. -/
def Obligations.DataByteIsVerbatimOrRangeError : Prop :=
  ∀ v : Int,
    (v < 0 ∨ 255 < v → encode (.writeData v) = none ∧
      ∀ s : State, s.block = .idle →
        exec (.writeData v) s = .next (s.afterReport (.writeData v) (.error .rangeError))) ∧
    (0 ≤ v ∧ v ≤ 255 → ∃ d : Byte, encode (.writeData v) = some (busWord true false d) ∧ (d.toNat : Int) = v)

/-- 30_encoding R72, first half: decode of encode gives back each of the seven single-word operations, every operand
at every value in range. -/
def Obligations.DecodeInvertsEncode : Prop :=
  ∀ i : Instr, i.singleWord = true → i.wellFormed = true → ∃ w, encode i = some w ∧ decode w = some i

/-- 30_encoding R72, second half: encode of decode gives back every word that decodes, so the encoder's image is the
set of words that decode, and the decoder gives well-formed single-word operations only. -/
def Obligations.EncodeInvertsDecode : Prop :=
  ∀ (w : BusWord) (i : Instr), decode w = some i → encode i = some w ∧ i.singleWord = true ∧ i.wellFormed = true

/-- 30_encoding R69: 406 of the 1024 words are in the image: below 0x080 the 22 words listed, from 0x080 on all of
0x080..0x0FF and all of 0x200..0x2FF, and no other. -/
def Obligations.ImageHas406Words : Prop :=
  ((List.range 1024).filter fun n => (decode (BitVec.ofNat 10 n)).isSome).length = 406 ∧
  (((List.range 1024).filter fun n => (decode (BitVec.ofNat 10 n)).isSome).filter fun n => n < 0x80) =
    [0x01, 0x02, 0x04, 0x05, 0x06, 0x07, 0x08, 0x09, 0x0A, 0x0B, 0x0C, 0x0D, 0x0E, 0x0F,
     0x20, 0x24, 0x28, 0x2C, 0x30, 0x34, 0x38, 0x3C] ∧
  (((List.range 1024).filter fun n => (decode (BitVec.ofNat 10 n)).isSome).filter fun n => 0x80 ≤ n) =
    (List.range 0x80).map (fun k => 0x080 + k) ++ (List.range 0x100).map (fun k => 0x200 + k)

/-- 41_instruction_commands R118 with C1 and D10 to D13, the spec's own choice of defaults: the words of the default
calls. -/
def Obligations.DefaultOperandsEncode : Prop :=
  encode functionSetDefault = some 0b0000110000#10 ∧ encode entryModeSetDefault = some 0b0000000110#10 ∧
  encode (displayControlDefault true) = some 0b0000001100#10 ∧ ∀ text, writeTextDefault text = .writeText text false

/-! The operations. -/

/-- 41_instruction_commands R110. The traces of a call of the primitive are those of `Call.events` and `Call.txn`
(40 R100, with the spec's decisions D4, D5, D9, D25); the same in the statements that follow. -/
def Obligations.ClearDisplaySendsItsWord : Prop :=
  ∀ s : State, s.block = .idle →
    exec .clearDisplay s = .next (s.afterSending .clearDisplay [{ rs := false, rw := false, d := 0x01#8, cls := .long }])

/-- 41_instruction_commands R111. -/
def Obligations.ReturnHomeSendsItsWord : Prop :=
  ∀ s : State, s.block = .idle →
    exec .returnHome s = .next (s.afterSending .returnHome [{ rs := false, rw := false, d := 0x02#8, cls := .long }])

/-- 41_instruction_commands R112, the word computed as its pseudocode computes it. -/
def Obligations.EntryModeSetSendsItsWord : Prop :=
  ∀ (decrement displayShift : Bool) (s : State), s.block = .idle →
    exec (.entryModeSet decrement displayShift) s =
      .next (s.afterSending (.entryModeSet decrement displayShift)
        [{ rs := false, rw := false, d := BitVec.ofNat 8 (0b00000100 + 2 * (!decrement).toNat + displayShift.toNat),
           cls := .short }])

/-- 41_instruction_commands R113, the word computed as its pseudocode computes it. -/
def Obligations.DisplayControlSendsItsWord : Prop :=
  ∀ (displayOn cursorOn blinkOn : Bool) (s : State), s.block = .idle →
    exec (.displayControl displayOn cursorOn blinkOn) s =
      .next (s.afterSending (.displayControl displayOn cursorOn blinkOn)
        [{ rs := false, rw := false,
           d := BitVec.ofNat 8 (0b00001000 + 4 * displayOn.toNat + 2 * cursorOn.toNat + blinkOn.toNat), cls := .short }])

/-- 41_instruction_commands R114 and R117, the word computed as R114's pseudocode computes it; every combination is
sent, `data_length_8bit = false` and `two_line = true` among them. -/
def Obligations.FunctionSetSendsItsWord : Prop :=
  ∀ (dataLength8bit twoLine font5x10 : Bool) (s : State), s.block = .idle →
    exec (.functionSet dataLength8bit twoLine font5x10) s =
      .next (s.afterSending (.functionSet dataLength8bit twoLine font5x10)
        [{ rs := false, rw := false,
           d := BitVec.ofNat 8 (0b00100000 + 16 * dataLength8bit.toNat + 8 * twoLine.toNat + 4 * font5x10.toNat),
           cls := .short }])

/-- 41_instruction_commands R115: in 0..127 the word `128 + address` is sent; otherwise RangeError and nothing sent. -/
def Obligations.SetDdramAddressSendsOrFails : Prop :=
  ∀ (a : Int) (s : State), s.block = .idle →
    (0 ≤ a ∧ a ≤ 127 →
      exec (.setDdramAddress a) s =
        .next (s.afterSending (.setDdramAddress a)
          [{ rs := false, rw := false, d := BitVec.ofInt 8 (0b10000000 + a), cls := .short }])) ∧
    (a < 0 ∨ 127 < a →
      exec (.setDdramAddress a) s = .next (s.afterReport (.setDdramAddress a) (.error .rangeError)))

/-- 42_data_and_text R130: in 0..255 the value is sent to the data register; otherwise RangeError and nothing sent. -/
def Obligations.WriteDataSendsOrFails : Prop :=
  ∀ (v : Int) (s : State), s.block = .idle →
    (0 ≤ v ∧ v ≤ 255 →
      exec (.writeData v) s =
        .next (s.afterSending (.writeData v) [{ rs := true, rw := false, d := BitVec.ofInt 8 v, cls := .short }])) ∧
    (v < 0 ∨ 255 < v →
      exec (.writeData v) s = .next (s.afterReport (.writeData v) (.error .rangeError)))

/-- 42_data_and_text R131, R137: the code of a key, LookupError for a character that is no key; nothing but the report
changes, and no code is substituted. -/
def Obligations.ResolveCharAnswersOrFails : Prop :=
  ∀ (c : CodePoint) (s : State), s.block = .idle →
    (∀ code, Memory.read s.charTab c.val = some code →
      exec (.resolveChar c) s = .next (s.afterReport (.resolveChar c) (.okCode code))) ∧
    (Memory.read s.charTab c.val = none →
      exec (.resolveChar c) s = .next (s.afterReport (.resolveChar c) (.error .lookupError)))

/-- 42_data_and_text R132, R134, R135: with `two_line` false and every character a key, the five fixed words and then
one data word a character, in input order, for a text of any length (the empty one too, R136). The third, fourth and
fifth word rest on the spec's decisions D10 (C1), D11 and D12, the empty text on D16, the length on D24. -/
def Obligations.WriteTextSendsPreambleThenCodes : Prop :=
  ∀ (text : List CodePoint) (codes : List Byte) (s : State), s.block = .idle →
    text.map (fun c => Memory.read s.charTab c.val) = codes.map some →
    exec (.writeText text false) s =
      .next (s.afterSending (.writeText text false)
        ([{ rs := false, rw := false, d := 0x01#8, cls := .long },
          { rs := false, rw := false, d := 0x80#8, cls := .short },
          { rs := false, rw := false, d := 0x30#8, cls := .short },
          { rs := false, rw := false, d := 0x0C#8, cls := .short },
          { rs := false, rw := false, d := 0x06#8, cls := .short }] ++
         codes.map fun d => { rs := true, rw := false, d := d, cls := .short }))

/-- 42_data_and_text R133 with D14, D15: `two_line` is tested first (for the empty text too), then the characters; a
failed check sends nothing, not the five fixed words either. -/
def Obligations.WriteTextChecksBeforeSending : Prop :=
  ∀ (text : List CodePoint) (s : State), s.block = .idle →
    exec (.writeText text true) s = .next (s.afterReport (.writeText text true) (.error .notImplemented)) ∧
    ((∃ c ∈ text, Memory.read s.charTab c.val = none) →
      exec (.writeText text false) s = .next (s.afterReport (.writeText text false) (.error .lookupError)))

/-- 30_encoding R75 (with the defaults of D10 to D12): write_text is its component operations one after the other. It
leaves the lines, both traces, the table, the pins and the block as they do; only the reports differ, one for the
composite. -/
def Obligations.WriteTextIsItsExpansion : Prop :=
  ∀ (text : List CodePoint) (codes : List Byte) (s : State), s.block = .idle →
    text.map (fun c => Memory.read s.charTab c.val) = codes.map some →
    ∃ t u : State, exec (.writeText text false) s = .next t ∧
      execAll ([.clearDisplay, .setDdramAddress 0, .functionSet true false false, .displayControl true false false,
        .entryModeSet false false] ++ codes.map fun d => Instr.writeData d.toNat) s = .next u ∧
      t = { u with reports := s.reports ++ [{ op := .writeText text false, answer := .ok }] }

/-- 95 program P1 (source property S6): with 'A' a key of code 0x41, `write_text("A")` latches six words, and leaves
RS, DB6 and DB0 high and the other lines low. The third to fifth word rest on D10, D11 and D12. -/
def Obligations.WriteTextOfLetterA : Prop :=
  ∀ s : State, s.block = .idle → Memory.read s.charTab 0x41 = some 0x41#8 →
    ∃ t : State, exec (.writeText [0x41] false) s = .next t ∧
      t.tTrace = s.tTrace ++ [⟨false, false, 0x01#8⟩, ⟨false, false, 0x80#8⟩, ⟨false, false, 0x30#8⟩,
        ⟨false, false, 0x0C#8⟩, ⟨false, false, 0x06#8⟩, ⟨true, false, 0x41#8⟩] ∧
      (∀ n : Line, t.lines.get n = some (n == .rs || n == .db6 || n == .db0)) ∧
      t.reports = s.reports ++ [{ op := .writeText [0x41] false, answer := .ok }]

/-- 42_data_and_text R139: under the optional hypothesis AsciiIdentity a key from U+0020 to U+007E resolves to its own
code point. -/
def Obligations.AsciiKeyResolvesToItself : Prop :=
  ∀ (c : CodePoint) (s : State), s.block = .idle → AsciiIdentity s.charTab → 0x20 ≤ c.val → c.val ≤ 0x7E →
    (Memory.read s.charTab c.val).isSome = true →
    exec (.resolveChar c) s = .next (s.afterReport (.resolveChar c) (.okCode (BitVec.ofNat 8 c.val)))

/-! All operations. -/

/-- 20_memory R45, R46, 10_state R22 (E idle after the strobe is D4): after an operation that latched words, the lines
hold RS, RW and the data bits of the last one, bit i on line DBi, with E false. -/
def Obligations.LinesHoldTheLastWord : Prop :=
  ∀ (i : Instr) (s t : State), s.block = .idle → exec i s = .next t →
    ∀ (words : List Txn) (x : Txn), t.tTrace = s.tTrace ++ words → words.getLast? = some x →
      t.lines.get .rs = some x.rs ∧ t.lines.get .rw = some x.rw ∧ t.lines.get .e = some false ∧
      t.lines.get .db0 = some (x.d.getLsbD 0) ∧ t.lines.get .db1 = some (x.d.getLsbD 1) ∧
      t.lines.get .db2 = some (x.d.getLsbD 2) ∧ t.lines.get .db3 = some (x.d.getLsbD 3) ∧
      t.lines.get .db4 = some (x.d.getLsbD 4) ∧ t.lines.get .db5 = some (x.d.getLsbD 5) ∧
      t.lines.get .db6 = some (x.d.getLsbD 6) ∧ t.lines.get .db7 = some (x.d.getLsbD 7)

/-- What an operation on a free block leaves unchanged and how the rest grows: the table (every character reads as
before), the pins, the held requests and the block are as they were; the traces only grow; exactly one outcome is
reported (60 R150, R159); and the lines change only if a word was latched. -/
def Obligations.OperationFrame : Prop :=
  ∀ (i : Instr) (s t : State), s.block = .idle → exec i s = .next t →
    t.block = .idle ∧ t.charTab = s.charTab ∧ (∀ a, Memory.read t.charTab a = Memory.read s.charTab a) ∧
    t.pinMap = s.pinMap ∧ t.pinDir = s.pinDir ∧ t.waiting = s.waiting ∧ t.admissions = s.admissions ∧
    (∃ events, t.events = s.events ++ events) ∧ (∃ words, t.tTrace = s.tTrace ++ words) ∧
    (∃ answer, t.reports = s.reports ++ [{ op := i, answer := answer }]) ∧
    (t.tTrace = s.tTrace → t.lines = s.lines ∧ t.events = s.events)

/-- 60_exceptions R151, R152, R153: which operation reports which error, and when: RangeError exactly for an address
or a value out of its inclusive bounds, LookupError exactly for a character that is no key (in write_text only when
`two_line` is false, D14), NotImplemented exactly for write_text with `two_line`, ConstructionFailure never. -/
def Obligations.ErrorsHaveExactlyTheirCauses : Prop :=
  ∀ (i : Instr) (s t : State), s.block = .idle → exec i s = .next t →
    (t.reports = s.reports ++ [{ op := i, answer := .error .rangeError }] ↔
      (∃ a, i = .setDdramAddress a ∧ (a < 0 ∨ 127 < a)) ∨ (∃ v, i = .writeData v ∧ (v < 0 ∨ 255 < v))) ∧
    (t.reports = s.reports ++ [{ op := i, answer := .error .lookupError }] ↔
      (∃ c, i = .resolveChar c ∧ Memory.read s.charTab c.val = none) ∨
      (∃ text, i = .writeText text false ∧ ∃ c ∈ text, Memory.read s.charTab c.val = none)) ∧
    (t.reports = s.reports ++ [{ op := i, answer := .error .notImplemented }] ↔ ∃ text, i = .writeText text true) ∧
    t.reports ≠ s.reports ++ [{ op := i, answer := .error .constructionFailure }]

/-- 60_exceptions R155: an operation that fails has written no line, started no transaction, appended nothing to
either trace and inserted no wait: the state is the one before it, but for the report. -/
def Obligations.FailedOperationWritesNothing : Prop :=
  ∀ (i : Instr) (s t : State) (err : OpError), s.block = .idle → exec i s = .next t →
    t.reports = s.reports ++ [{ op := i, answer := .error err }] →
    t = s.afterReport i (.error err) ∧ t.lines = s.lines ∧ t.lTrace = s.lTrace ∧ t.tTrace = s.tTrace ∧
      t.events = s.events

/-- 10_state R21, R30, 41 R116: what an operation sends and answers depends on the operation and the table only,
never on the lines, the traces or earlier operations. -/
def Obligations.OperationIgnoresPriorState : Prop :=
  ∀ (i : Instr) (s₁ s₂ t₁ t₂ : State), s₁.block = .idle → s₂.block = .idle → s₁.charTab = s₂.charTab →
    exec i s₁ = .next t₁ → exec i s₂ = .next t₂ →
    ∃ (events : List Event) (words : List Txn) (answer : Answer),
      t₁.events = s₁.events ++ events ∧ t₂.events = s₂.events ++ events ∧
      t₁.tTrace = s₁.tTrace ++ words ∧ t₂.tTrace = s₂.tTrace ++ words ∧
      t₁.reports = s₁.reports ++ [{ op := i, answer := answer }] ∧
      t₂.reports = s₂.reports ++ [{ op := i, answer := answer }] ∧
      (words ≠ [] → t₁.lines = t₂.lines)

/-- 30_encoding R62: every word an operation latches is of the instruction class (RS = 0, RW = 0, a command word of an
instruction-register operation) or of the data class (RS = 1, RW = 0), every byte is some data word, and no word with
RW = 1 is latched. -/
def Obligations.LatchedWordsAreOfTwoClasses : Prop :=
  (∀ (i : Instr) (s t : State), s.block = .idle → exec i s = .next t →
    ∀ words, t.tTrace = s.tTrace ++ words → ∀ x ∈ words,
      x.rw = false ∧
      (x.rs = false → ∃ op, decode x.word = some op ∧ encode op = some (busWord false false x.d)) ∧
      (x.rs = true → decode x.word = some (.writeData x.d.toNat))) ∧
  (∀ d : Byte, encode (.writeData d.toNat) = some (busWord true false d))

/-- 70 R196 and 95 section 2.5 (count law): a successful single-word operation latches one word, a successful
write_text 5 + n, resolve_char and a failed operation none; and each latched word adds three L-trace entries. -/
def Obligations.TransactionCountLaw : Prop :=
  ∀ (i : Instr) (s t : State), s.block = .idle → exec i s = .next t →
    ∃ n, t.tTrace.length = s.tTrace.length + n ∧ t.lTrace.length = s.lTrace.length + 3 * n ∧
      (t.reports = s.reports ++ [{ op := i, answer := .ok }] →
        (i.singleWord = true → n = 1) ∧ (∀ text twoLine, i = .writeText text twoLine → n = 5 + text.length)) ∧
      (t.reports ≠ s.reports ++ [{ op := i, answer := .ok }] → n = 0)

/-- 40 R96, R97 and 70 R187 with D9: the waits of a single-word operation are T_AS, T_PW, T_H and then T_EXEC, in that
order and no others, T_EXEC being of class LONG after clear_display and return_home and SHORT after every other; and
the least time it takes is their sum, whatever the values of the parameters. -/
def Obligations.OnlyClearAndHomeWaitLong : Prop :=
  ∀ (i : Instr) (s : State), s.block = .idle → i.singleWord = true → i.wellFormed = true →
    ∃ (t : State) (events : List Event), exec i s = .next t ∧ t.events = s.events ++ events ∧
      waits events =
        [.tAs, .tPw, .tH, .tExec (if i = .clearDisplay ∨ i = .returnHome then .long else .short)] ∧
      minTime t.events = minTime s.events + (Config.minWait .tAs + Config.minWait .tPw + Config.minWait .tH +
        Config.minWait (.tExec (if i = .clearDisplay ∨ i = .returnHome then .long else .short)))

/-- 20_memory R51: the T-trace of a run of operations is the concatenation, in acceptance order, of the T-traces of
its operations, each of which the operation and the table alone decide. -/
def Obligations.TraceIsConcatenationInOrder : Prop :=
  ∀ (ops : List Instr) (s : State), s.block = .idle →
    ∃ words : Instr → List Txn,
      (∀ (i : Instr) (u : State), u.block = .idle → u.charTab = s.charTab →
        ∃ v, exec i u = .next v ∧ v.tTrace = u.tTrace ++ words i) ∧
      ∃ t, execAll ops s = .next t ∧ t.tTrace = s.tTrace ++ ops.flatMap words

/-! The step. -/

/-- A step runs the decoded operation: with a bus word that decodes placed as the one request of the block, the step
is `exec` of that operation, the request admitted. That a request is placed rather than fetched is the model's choice
(log 6), since the block fetches nothing (10_state R27). -/
def Obligations.StepRunsTheDecodedOperation : Prop :=
  ∀ (s : State) (nbits w : Nat) (i : Instr), decodeTableWord nbits w = some i →
    step (s.withFetchWord nbits w) =
      exec i { s with block := .idle, waiting := [], admissions := s.admissions + 1 }

/-- 20_memory R53, 10_state R25 with D23 and U9: a free block admits one of the held callers, which one is left free,
runs its operation to the end, and goes on holding the others in their order; with none held it does nothing
(70 R197). -/
def Obligations.FreeBlockAdmitsOneHeldCaller : Prop :=
  ∀ s : State, s.block = .idle →
    (s.waiting = [] → step s = .next s) ∧
    (s.waiting ≠ [] → ∃ before i after, s.waiting = before ++ i :: after ∧
      step s = exec i { s with waiting := before ++ after, admissions := s.admissions + 1 })

/-- 10_state R25, 70 R197 with D23: while an operation is in progress an operation issued is held, not run and not
refused, and a step of the operation in progress leaves the held requests alone. -/
def Obligations.BusyBlockHoldsCallers : Prop :=
  ∀ (s : State) (job : Job), s.block = .busy job →
    (∀ i : Instr, exec i s = .next { s with waiting := s.waiting ++ [i] }) ∧
    (∀ t, step s = .next t → t.waiting = s.waiting ∧ t.admissions = s.admissions)

/-- 40 R97, R100 with D4, D5, D7: the transitions of the sequencer, one a step, and what each writes. The first five
clauses are the rows of the table. The LAST clause is no row of it but the model's own choice (DESIGN CHOICE, log 1):
that an operation with no call left ends by a transition of its own, which frees the block and reports ok. -/
def Obligations.SequencerMovesAsTheTable : Prop :=
  ∀ (s : State) (op : Instr) (c : Call) (todo : List Call),
    (s.block = .busy ⟨op, c :: todo, .idle⟩ → c.rw = false →
      step s = .next { s with lines := drivenLines c.rs false false c.d, block := .busy ⟨op, todo, .setup c⟩,
                              events := s.events ++ [.drive (drivenLines c.rs false false c.d)] }) ∧
    (s.block = .busy ⟨op, todo, .setup c⟩ →
      step s = .next { s with lines := { s.lines with e := true }, block := .busy ⟨op, todo, .eHigh c⟩,
                              events := s.events ++ [.wait .tAs, .drive { s.lines with e := true }] }) ∧
    (s.block = .busy ⟨op, todo, .eHigh c⟩ →
      step s = .next { s with lines := { s.lines with e := false }, block := .busy ⟨op, todo, .eLow c⟩,
                              events := s.events ++ [.wait .tPw, .drive { s.lines with e := false }],
                              tTrace := s.tTrace ++ [⟨c.rs, c.rw, c.d⟩] }) ∧
    (s.block = .busy ⟨op, todo, .eLow c⟩ →
      step s = .next { s with block := .busy ⟨op, todo, .wait c⟩, events := s.events ++ [.wait .tH] }) ∧
    (s.block = .busy ⟨op, todo, .wait c⟩ →
      step s = .next { s with block := .busy ⟨op, todo, .idle⟩, events := s.events ++ [.wait (.tExec c.cls)] }) ∧
    (s.block = .busy ⟨op, [], .idle⟩ →
      step s = .next { s with block := .idle, reports := s.reports ++ [⟨op, .ok⟩] })

/-- 40 R99 with D19: a call of the primitive with RW true is refused, by that name. -/
def Obligations.ReadTransactionIsRefused : Prop :=
  ∀ (s : State) (op : Instr) (c : Call) (todo : List Call),
    s.block = .busy ⟨op, c :: todo, .idle⟩ → c.rw = true → step s = .refused .readTransaction

/-- 40 R97, R100 and 00_scope R4 with D7, D25: the two grains of the model agree. An operation that `exec` sends on a
free block (it answers ok) has write calls, those whose words it latches, such that the run from the accepted state,
step by step through every phase of every call, is exactly what `exec` gives at once. And whatever write calls an
operation in progress has, the stepped run sends them all in order. That a run takes five steps a call AND ONE TO END is
the model's own choice (DESIGN CHOICE, log 1). -/
def Obligations.SteppedRunReachesTheWholeOperation : Prop :=
  (∀ (i : Instr) (s t : State), s.block = .idle → exec i s = .next t →
    t.reports = s.reports ++ [{ op := i, answer := .ok }] →
    ∃ calls : List Call, (∀ c ∈ calls, c.rw = false) ∧ t.tTrace = s.tTrace ++ calls.map Call.txn ∧
      Host.Core.run core (5 * calls.length + 1) { s with block := .busy ⟨i, calls, .idle⟩ } = exec i s) ∧
  (∀ (op : Instr) (calls : List Call) (s : State), (∀ c ∈ calls, c.rw = false) →
    Host.Core.run core (5 * calls.length + 1) { s with block := .busy ⟨op, calls, .idle⟩ } =
      .next (s.afterSending op calls))

/-- 70 R196, 40 R97 ("there is no abort"): from any point of an operation in progress whose calls are writes, the
block is free again after a bounded number of steps, its caller told ok, no held request touched, and every word that
was not latched yet latched once, in order. -/
def Obligations.OperationInProgressEnds : Prop :=
  ∀ (s : State) (job : Job), s.block = .busy job → (∀ c ∈ s.calls, c.rw = false) →
    ∃ (n : Nat) (t : State), n ≤ 5 * job.todo.length + 5 ∧ Host.Core.run core n s = .next t ∧ t.block = .idle ∧
      t.reports = s.reports ++ [{ op := job.op, answer := .ok }] ∧ t.waiting = s.waiting ∧
      t.tTrace = s.tTrace ++
        ((match job.phase with | .setup c => [c] | .eHigh c => [c] | _ => []) ++ job.todo).map Call.txn

/-- A constructed block whose calls in progress are writes always steps: no fault and no refusal, for every request
whatever its operands (60 R156: errors are outcomes; 70 R196: the block cannot hang). -/
def Obligations.ConstructedBlockNeverStops : Prop :=
  ∀ s : State, s.block ≠ .absent → (∀ c ∈ s.calls, c.rw = false) →
    ∃ t, step s = .next t ∧ t.block ≠ .absent ∧ ∀ c ∈ t.calls, c.rw = false

/-- 10_state R26, R23, R21: no step and no operation writes the character table (R26), rebinds a line to another pin
(R23) or changes the direction of the pins (R21; that one value stands for the eleven is DEDUCED, log 16). -/
def Obligations.TableAndPinsNeverChange : Prop :=
  (∀ s t : State, step s = .next t → t.charTab = s.charTab ∧ t.pinMap = s.pinMap ∧ t.pinDir = s.pinDir) ∧
  (∀ (i : Instr) (s t : State), exec i s = .next t →
    t.charTab = s.charTab ∧ t.pinMap = s.pinMap ∧ t.pinDir = s.pinDir)

/-- 20_memory R49, R51: no step takes back, replaces or reorders what the traces and the reports hold: each only
grows at its end. -/
def Obligations.TracesOnlyGrow : Prop :=
  ∀ s t : State, step s = .next t →
    (∃ events, t.events = s.events ++ events) ∧ (∃ lines, t.lTrace = s.lTrace ++ lines) ∧
    (∃ words, t.tTrace = s.tTrace ++ words) ∧ (∃ reports, t.reports = s.reports ++ reports)

/-- The invariant of Safety.lean is kept by every step: three L-trace entries a latched word (40 R100), the lines
holding the value last written (10_state R22), every latched word one the encoder produces (30 R69, R70), the table
canonical with 'A' (42 R138), the pins distinct outputs (10_state R23, R32). -/
def Obligations.StepKeepsInvariant : Prop :=
  ∀ s t : State, s.Inv → step s = .next t → t.Inv

/-- 40 R94, R95: in the L-trace of a state that meets the invariant every entry gives every line a value; two
neighbouring entries of which one has E true have the other ten lines equal and E different; and no trace begins with
E true. -/
def Obligations.LinesAreStableWhileEnabled : Prop :=
  ∀ s : State, s.Inv →
    (∀ l ∈ s.lTrace, ∀ n : Line, (l.get n).isSome = true) ∧
    (∀ l, s.lTrace[0]? = some l → l.e = false) ∧
    (∀ (k : Nat) (l m : Lines), s.lTrace[k]? = some l → s.lTrace[k + 1]? = some m → (l.e = true ∨ m.e = true) →
      l.e ≠ m.e ∧ { l with e := false } = { m with e := false })

/-- 40 R102, 10_state R23: with eleven distinct pins, the pin of a line carries that line's level, and no other pin
carries any. -/
def Obligations.PinsCarryTheirLines : Prop :=
  ∀ s : State, s.pinMap.ids.Nodup →
    (∀ n : Line, s.pinLevel (s.pinMap.pin n) = s.lines.get n) ∧
    (∀ p, p ∉ s.pinMap.ids → s.pinLevel p = none)

/-- 60 R157 with D17, the spec's own numbers: the codes of the outcomes on a status port. -/
def Obligations.StatusCodes : Prop :=
  Answer.ok.status = 0 ∧ (∀ code, (Answer.okCode code).status = 0) ∧ (Answer.error .rangeError).status = 1 ∧
  (Answer.error .lookupError).status = 2 ∧ (Answer.error .notImplemented).status = 3 ∧
  (Answer.error .constructionFailure).status = 4
end

