-- ==== Sys2Proof/Laws/Decode.lean ====
section
/-!
SUPPORT. The operand fields of R66 and R67: what they give in range and out of range.
-/

namespace Sys2Proof

theorem addressField_inRange {a : Int} (h : 0 ≤ a ∧ a ≤ 127) : addressField a = some (BitVec.ofInt 7 a) := by
  simp [addressField, h]

theorem addressField_outOfRange {a : Int} (h : a < 0 ∨ 127 < a) : addressField a = none := by
  have : ¬(0 ≤ a ∧ a ≤ 127) := by omega
  simp [addressField, this]

theorem dataField_inRange {v : Int} (h : 0 ≤ v ∧ v ≤ 255) : dataField v = some (BitVec.ofInt 8 v) := by
  simp [dataField, h]

theorem dataField_outOfRange {v : Int} (h : v < 0 ∨ 255 < v) : dataField v = none := by
  have : ¬(0 ≤ v ∧ v ≤ 255) := by omega
  simp [dataField, this]

/-- Every bus word formed of its three parts has them back: RS. -/
theorem busWord_rs (rs rw : Bool) (d : Byte) : (busWord rs rw d).getLsbD 9 = rs := by
  cases rs <;> cases rw <;> simp only [busWord, BitVec.getLsbD_append] <;> rfl

/-- RW. -/
theorem busWord_rw (rs rw : Bool) (d : Byte) : (busWord rs rw d).getLsbD 8 = rw := by
  cases rs <;> cases rw <;> simp only [busWord, BitVec.getLsbD_append] <;> rfl

/-- DB7..DB0. -/
theorem busWord_data (rs rw : Bool) (d : Byte) : (busWord rs rw d).extractLsb' 0 8 = d := by
  apply BitVec.eq_of_getLsbD_eq
  intro i hi
  simp only [BitVec.getLsbD_extractLsb', busWord, BitVec.getLsbD_append, hi, Nat.zero_add, decide_true, Bool.true_and, if_true]

end Sys2Proof
end

