-- ==== Sys2Proof/Laws/State.lean ====
section
/-!
SUPPORT. One lemma per field per update of the state, so that no later proof unfolds a record update; and the views
(busy, phase, L-trace) of each update that changes them.
-/

namespace Sys2Proof.Machine

@[simp] theorem State.report_lines (op : Instr) (a : Answer) (s : State) : (s.report op a).lines = s.lines := rfl
@[simp] theorem State.report_block (op : Instr) (a : Answer) (s : State) : (s.report op a).block = s.block := rfl
@[simp] theorem State.report_charTab (op : Instr) (a : Answer) (s : State) : (s.report op a).charTab = s.charTab := rfl
@[simp] theorem State.report_pinMap (op : Instr) (a : Answer) (s : State) : (s.report op a).pinMap = s.pinMap := rfl
@[simp] theorem State.report_pinDir (op : Instr) (a : Answer) (s : State) : (s.report op a).pinDir = s.pinDir := rfl
@[simp] theorem State.report_waiting (op : Instr) (a : Answer) (s : State) : (s.report op a).waiting = s.waiting := rfl
@[simp] theorem State.report_admissions (op : Instr) (a : Answer) (s : State) : (s.report op a).admissions = s.admissions := rfl
@[simp] theorem State.report_events (op : Instr) (a : Answer) (s : State) : (s.report op a).events = s.events := rfl
@[simp] theorem State.report_tTrace (op : Instr) (a : Answer) (s : State) : (s.report op a).tTrace = s.tTrace := rfl
@[simp] theorem State.report_reports (op : Instr) (a : Answer) (s : State) : (s.report op a).reports = s.reports ++ [{ op := op, answer := a }] := rfl

@[simp] theorem State.drive_lines (l : Lines) (s : State) : (s.drive l).lines = l := rfl
@[simp] theorem State.drive_block (l : Lines) (s : State) : (s.drive l).block = s.block := rfl
@[simp] theorem State.drive_charTab (l : Lines) (s : State) : (s.drive l).charTab = s.charTab := rfl
@[simp] theorem State.drive_pinMap (l : Lines) (s : State) : (s.drive l).pinMap = s.pinMap := rfl
@[simp] theorem State.drive_pinDir (l : Lines) (s : State) : (s.drive l).pinDir = s.pinDir := rfl
@[simp] theorem State.drive_waiting (l : Lines) (s : State) : (s.drive l).waiting = s.waiting := rfl
@[simp] theorem State.drive_admissions (l : Lines) (s : State) : (s.drive l).admissions = s.admissions := rfl
@[simp] theorem State.drive_events (l : Lines) (s : State) : (s.drive l).events = s.events ++ [.drive l] := rfl
@[simp] theorem State.drive_tTrace (l : Lines) (s : State) : (s.drive l).tTrace = s.tTrace := rfl
@[simp] theorem State.drive_reports (l : Lines) (s : State) : (s.drive l).reports = s.reports := rfl

@[simp] theorem State.driveE_lines (e : Bool) (s : State) : (s.driveE e).lines = { s.lines with e := e } := rfl
@[simp] theorem State.driveE_block (e : Bool) (s : State) : (s.driveE e).block = s.block := rfl
@[simp] theorem State.driveE_charTab (e : Bool) (s : State) : (s.driveE e).charTab = s.charTab := rfl
@[simp] theorem State.driveE_pinMap (e : Bool) (s : State) : (s.driveE e).pinMap = s.pinMap := rfl
@[simp] theorem State.driveE_pinDir (e : Bool) (s : State) : (s.driveE e).pinDir = s.pinDir := rfl
@[simp] theorem State.driveE_waiting (e : Bool) (s : State) : (s.driveE e).waiting = s.waiting := rfl
@[simp] theorem State.driveE_admissions (e : Bool) (s : State) : (s.driveE e).admissions = s.admissions := rfl
@[simp] theorem State.driveE_events (e : Bool) (s : State) : (s.driveE e).events = s.events ++ [.drive { s.lines with e := e }] := rfl
@[simp] theorem State.driveE_tTrace (e : Bool) (s : State) : (s.driveE e).tTrace = s.tTrace := rfl
@[simp] theorem State.driveE_reports (e : Bool) (s : State) : (s.driveE e).reports = s.reports := rfl

@[simp] theorem State.pause_lines (w : Wait) (s : State) : (s.pause w).lines = s.lines := rfl
@[simp] theorem State.pause_block (w : Wait) (s : State) : (s.pause w).block = s.block := rfl
@[simp] theorem State.pause_charTab (w : Wait) (s : State) : (s.pause w).charTab = s.charTab := rfl
@[simp] theorem State.pause_pinMap (w : Wait) (s : State) : (s.pause w).pinMap = s.pinMap := rfl
@[simp] theorem State.pause_pinDir (w : Wait) (s : State) : (s.pause w).pinDir = s.pinDir := rfl
@[simp] theorem State.pause_waiting (w : Wait) (s : State) : (s.pause w).waiting = s.waiting := rfl
@[simp] theorem State.pause_admissions (w : Wait) (s : State) : (s.pause w).admissions = s.admissions := rfl
@[simp] theorem State.pause_events (w : Wait) (s : State) : (s.pause w).events = s.events ++ [.wait w] := rfl
@[simp] theorem State.pause_tTrace (w : Wait) (s : State) : (s.pause w).tTrace = s.tTrace := rfl
@[simp] theorem State.pause_reports (w : Wait) (s : State) : (s.pause w).reports = s.reports := rfl

@[simp] theorem State.latch_lines (c : Call) (s : State) : (s.latch c).lines = s.lines := rfl
@[simp] theorem State.latch_block (c : Call) (s : State) : (s.latch c).block = s.block := rfl
@[simp] theorem State.latch_charTab (c : Call) (s : State) : (s.latch c).charTab = s.charTab := rfl
@[simp] theorem State.latch_pinMap (c : Call) (s : State) : (s.latch c).pinMap = s.pinMap := rfl
@[simp] theorem State.latch_pinDir (c : Call) (s : State) : (s.latch c).pinDir = s.pinDir := rfl
@[simp] theorem State.latch_waiting (c : Call) (s : State) : (s.latch c).waiting = s.waiting := rfl
@[simp] theorem State.latch_admissions (c : Call) (s : State) : (s.latch c).admissions = s.admissions := rfl
@[simp] theorem State.latch_events (c : Call) (s : State) : (s.latch c).events = s.events := rfl
@[simp] theorem State.latch_tTrace (c : Call) (s : State) : (s.latch c).tTrace = s.tTrace ++ [{ rs := c.rs, rw := c.rw, d := c.d }] := rfl
@[simp] theorem State.latch_reports (c : Call) (s : State) : (s.latch c).reports = s.reports := rfl

@[simp] theorem State.withBlock_lines (b : Block) (s : State) : (s.withBlock b).lines = s.lines := rfl
@[simp] theorem State.withBlock_block (b : Block) (s : State) : (s.withBlock b).block = b := rfl
@[simp] theorem State.withBlock_charTab (b : Block) (s : State) : (s.withBlock b).charTab = s.charTab := rfl
@[simp] theorem State.withBlock_pinMap (b : Block) (s : State) : (s.withBlock b).pinMap = s.pinMap := rfl
@[simp] theorem State.withBlock_pinDir (b : Block) (s : State) : (s.withBlock b).pinDir = s.pinDir := rfl
@[simp] theorem State.withBlock_waiting (b : Block) (s : State) : (s.withBlock b).waiting = s.waiting := rfl
@[simp] theorem State.withBlock_admissions (b : Block) (s : State) : (s.withBlock b).admissions = s.admissions := rfl
@[simp] theorem State.withBlock_events (b : Block) (s : State) : (s.withBlock b).events = s.events := rfl
@[simp] theorem State.withBlock_tTrace (b : Block) (s : State) : (s.withBlock b).tTrace = s.tTrace := rfl
@[simp] theorem State.withBlock_reports (b : Block) (s : State) : (s.withBlock b).reports = s.reports := rfl

@[simp] theorem State.hold_lines (op : Instr) (s : State) : (s.hold op).lines = s.lines := rfl
@[simp] theorem State.hold_block (op : Instr) (s : State) : (s.hold op).block = s.block := rfl
@[simp] theorem State.hold_charTab (op : Instr) (s : State) : (s.hold op).charTab = s.charTab := rfl
@[simp] theorem State.hold_pinMap (op : Instr) (s : State) : (s.hold op).pinMap = s.pinMap := rfl
@[simp] theorem State.hold_pinDir (op : Instr) (s : State) : (s.hold op).pinDir = s.pinDir := rfl
@[simp] theorem State.hold_waiting (op : Instr) (s : State) : (s.hold op).waiting = s.waiting ++ [op] := rfl
@[simp] theorem State.hold_admissions (op : Instr) (s : State) : (s.hold op).admissions = s.admissions := rfl
@[simp] theorem State.hold_events (op : Instr) (s : State) : (s.hold op).events = s.events := rfl
@[simp] theorem State.hold_tTrace (op : Instr) (s : State) : (s.hold op).tTrace = s.tTrace := rfl
@[simp] theorem State.hold_reports (op : Instr) (s : State) : (s.hold op).reports = s.reports := rfl

@[simp] theorem State.raise_lines (op : Instr) (err : OpError) (s : State) : (s.raise op err).lines = s.lines := rfl
@[simp] theorem State.raise_block (op : Instr) (err : OpError) (s : State) : (s.raise op err).block = s.block := rfl
@[simp] theorem State.raise_charTab (op : Instr) (err : OpError) (s : State) : (s.raise op err).charTab = s.charTab := rfl
@[simp] theorem State.raise_pinMap (op : Instr) (err : OpError) (s : State) : (s.raise op err).pinMap = s.pinMap := rfl
@[simp] theorem State.raise_pinDir (op : Instr) (err : OpError) (s : State) : (s.raise op err).pinDir = s.pinDir := rfl
@[simp] theorem State.raise_waiting (op : Instr) (err : OpError) (s : State) : (s.raise op err).waiting = s.waiting := rfl
@[simp] theorem State.raise_admissions (op : Instr) (err : OpError) (s : State) : (s.raise op err).admissions = s.admissions := rfl
@[simp] theorem State.raise_events (op : Instr) (err : OpError) (s : State) : (s.raise op err).events = s.events := rfl
@[simp] theorem State.raise_tTrace (op : Instr) (err : OpError) (s : State) : (s.raise op err).tTrace = s.tTrace := rfl
@[simp] theorem State.raise_reports (op : Instr) (err : OpError) (s : State) : (s.raise op err).reports = s.reports ++ [{ op := op, answer := .error err }] := rfl

@[simp] theorem State.accept_lines (op : Instr) (calls : List Call) (s : State) : (s.accept op calls).lines = s.lines := rfl
@[simp] theorem State.accept_block (op : Instr) (calls : List Call) (s : State) : (s.accept op calls).block = .busy { op := op, todo := calls, phase := .idle } := rfl
@[simp] theorem State.accept_charTab (op : Instr) (calls : List Call) (s : State) : (s.accept op calls).charTab = s.charTab := rfl
@[simp] theorem State.accept_pinMap (op : Instr) (calls : List Call) (s : State) : (s.accept op calls).pinMap = s.pinMap := rfl
@[simp] theorem State.accept_pinDir (op : Instr) (calls : List Call) (s : State) : (s.accept op calls).pinDir = s.pinDir := rfl
@[simp] theorem State.accept_waiting (op : Instr) (calls : List Call) (s : State) : (s.accept op calls).waiting = s.waiting := rfl
@[simp] theorem State.accept_admissions (op : Instr) (calls : List Call) (s : State) : (s.accept op calls).admissions = s.admissions := rfl
@[simp] theorem State.accept_events (op : Instr) (calls : List Call) (s : State) : (s.accept op calls).events = s.events := rfl
@[simp] theorem State.accept_tTrace (op : Instr) (calls : List Call) (s : State) : (s.accept op calls).tTrace = s.tTrace := rfl
@[simp] theorem State.accept_reports (op : Instr) (calls : List Call) (s : State) : (s.accept op calls).reports = s.reports := rfl

@[simp] theorem State.offer_lines (op : Instr) (s : State) : (s.offer op).lines = s.lines := rfl
@[simp] theorem State.offer_block (op : Instr) (s : State) : (s.offer op).block = .idle := rfl
@[simp] theorem State.offer_charTab (op : Instr) (s : State) : (s.offer op).charTab = s.charTab := rfl
@[simp] theorem State.offer_pinMap (op : Instr) (s : State) : (s.offer op).pinMap = s.pinMap := rfl
@[simp] theorem State.offer_pinDir (op : Instr) (s : State) : (s.offer op).pinDir = s.pinDir := rfl
@[simp] theorem State.offer_waiting (op : Instr) (s : State) : (s.offer op).waiting = [op] := rfl
@[simp] theorem State.offer_admissions (op : Instr) (s : State) : (s.offer op).admissions = s.admissions := rfl
@[simp] theorem State.offer_events (op : Instr) (s : State) : (s.offer op).events = s.events := rfl
@[simp] theorem State.offer_tTrace (op : Instr) (s : State) : (s.offer op).tTrace = s.tTrace := rfl
@[simp] theorem State.offer_reports (op : Instr) (s : State) : (s.offer op).reports = s.reports := rfl

@[simp] theorem State.afterSending_lines (op : Instr) (calls : List Call) (s : State) : (s.afterSending op calls).lines = linesAfter calls s.lines := rfl
@[simp] theorem State.afterSending_block (op : Instr) (calls : List Call) (s : State) : (s.afterSending op calls).block = .idle := rfl
@[simp] theorem State.afterSending_charTab (op : Instr) (calls : List Call) (s : State) : (s.afterSending op calls).charTab = s.charTab := rfl
@[simp] theorem State.afterSending_pinMap (op : Instr) (calls : List Call) (s : State) : (s.afterSending op calls).pinMap = s.pinMap := rfl
@[simp] theorem State.afterSending_pinDir (op : Instr) (calls : List Call) (s : State) : (s.afterSending op calls).pinDir = s.pinDir := rfl
@[simp] theorem State.afterSending_waiting (op : Instr) (calls : List Call) (s : State) : (s.afterSending op calls).waiting = s.waiting := rfl
@[simp] theorem State.afterSending_admissions (op : Instr) (calls : List Call) (s : State) : (s.afterSending op calls).admissions = s.admissions := rfl
@[simp] theorem State.afterSending_events (op : Instr) (calls : List Call) (s : State) : (s.afterSending op calls).events = s.events ++ calls.flatMap Call.events := rfl
@[simp] theorem State.afterSending_tTrace (op : Instr) (calls : List Call) (s : State) : (s.afterSending op calls).tTrace = s.tTrace ++ calls.map Call.txn := rfl
@[simp] theorem State.afterSending_reports (op : Instr) (calls : List Call) (s : State) : (s.afterSending op calls).reports = s.reports ++ [{ op := op, answer := .ok }] := rfl

@[simp] theorem State.afterReport_lines (op : Instr) (a : Answer) (s : State) : (s.afterReport op a).lines = s.lines := rfl
@[simp] theorem State.afterReport_block (op : Instr) (a : Answer) (s : State) : (s.afterReport op a).block = s.block := rfl
@[simp] theorem State.afterReport_charTab (op : Instr) (a : Answer) (s : State) : (s.afterReport op a).charTab = s.charTab := rfl
@[simp] theorem State.afterReport_pinMap (op : Instr) (a : Answer) (s : State) : (s.afterReport op a).pinMap = s.pinMap := rfl
@[simp] theorem State.afterReport_pinDir (op : Instr) (a : Answer) (s : State) : (s.afterReport op a).pinDir = s.pinDir := rfl
@[simp] theorem State.afterReport_waiting (op : Instr) (a : Answer) (s : State) : (s.afterReport op a).waiting = s.waiting := rfl
@[simp] theorem State.afterReport_admissions (op : Instr) (a : Answer) (s : State) : (s.afterReport op a).admissions = s.admissions := rfl
@[simp] theorem State.afterReport_events (op : Instr) (a : Answer) (s : State) : (s.afterReport op a).events = s.events := rfl
@[simp] theorem State.afterReport_tTrace (op : Instr) (a : Answer) (s : State) : (s.afterReport op a).tTrace = s.tTrace := rfl
@[simp] theorem State.afterReport_reports (op : Instr) (a : Answer) (s : State) : (s.afterReport op a).reports = s.reports ++ [{ op := op, answer := a }] := rfl

@[simp] theorem State.phase_of_idle {s : State} (h : s.block = .idle) : s.phase = .idle := by
  simp [State.phase, h]

@[simp] theorem State.busy_of_idle {s : State} (h : s.block = .idle) : s.busy = false := by
  simp [State.busy, h]

@[simp] theorem State.phase_of_busy {s : State} {job : Job} (h : s.block = .busy job) : s.phase = job.phase := by
  simp [State.phase, h]

@[simp] theorem State.busy_of_busy {s : State} {job : Job} (h : s.block = .busy job) : s.busy = true := by
  simp [State.busy, h]

theorem State.lTrace_eq_of_events {s t : State} (h : t.events = s.events) : t.lTrace = s.lTrace := by
  simp [State.lTrace, h]

/-- A drive adds one L-trace entry. -/
@[simp] theorem State.drive_lTrace (l : Lines) (s : State) : (s.drive l).lTrace = s.lTrace ++ [l] := by
  simp [State.lTrace, Event.driven]

/-- A wait adds none. -/
@[simp] theorem State.pause_lTrace (w : Wait) (s : State) : (s.pause w).lTrace = s.lTrace := by
  simp [State.lTrace, Event.driven]

@[simp] theorem State.withBlock_lTrace (b : Block) (s : State) : (s.withBlock b).lTrace = s.lTrace := rfl

@[simp] theorem State.latch_lTrace (c : Call) (s : State) : (s.latch c).lTrace = s.lTrace := rfl

@[simp] theorem State.report_lTrace (op : Instr) (a : Answer) (s : State) : (s.report op a).lTrace = s.lTrace := rfl

/-- The L-trace of one call's events: three entries (40_bus_sequencer R100). -/
@[simp] theorem Call.events_lines (c : Call) :
    c.events.filterMap Event.driven = c.txn.lines := rfl

/-- The waits of one call, in the order of R97. -/
@[simp] theorem Call.events_waits (c : Call) : waits c.events = [.tAs, .tPw, .tH, .tExec c.cls] := rfl

/-- The waits of two runs of events are those of the first and then those of the second. -/
theorem waits_append (a b : List Event) : waits (a ++ b) = waits a ++ waits b := List.filterMap_append

/-- After sending, the L-trace has three more entries for each call. -/
theorem State.afterSending_lTrace (op : Instr) (calls : List Call) (s : State) :
    (s.afterSending op calls).lTrace = s.lTrace ++ (calls.map Call.txn).flatMap Txn.lines := by
  unfold State.lTrace
  rw [State.afterSending_events, List.filterMap_append, List.filterMap_flatMap, List.flatMap_map]
  simp only [Call.events_lines]

end Sys2Proof.Machine
end

