-- ==== Sys2Proof/Laws/Sequencer.lean ====
section
/-!
SUPPORT. What the shared operations can do, said once: the acceptance of an operation, one transition of the sequencer,
one whole call, the run of an accepted operation.
-/

namespace Sys2Proof.Machine

theorem State.whenFree_idle {op : Instr} {s : State} (body : State → Host.Outcome State Fault Refusal)
    (h : s.block = .idle) : s.whenFree op body = body s := by
  simp [State.whenFree, h]

theorem State.whenFree_busy {op : Instr} {s : State} {job : Job} (body : State → Host.Outcome State Fault Refusal)
    (h : s.block = .busy job) : s.whenFree op body = .next (s.hold op) := by
  simp [State.whenFree, h]

theorem State.whenFree_absent {op : Instr} {s : State} (body : State → Host.Outcome State Fault Refusal)
    (h : s.block = .absent) : s.whenFree op body = .refused .notConstructed := by
  simp [State.whenFree, h]

/-- Everything one transition with an operation in progress can do (40_bus_sequencer R97). -/
theorem tick_busy_cases {s t : State} {job : Job} (hb : s.block = .busy job) (h : tick s = .next t) :
    (job.phase = .idle ∧ job.todo = [] ∧ t = endJob job s) ∨
    (∃ c rest, job.phase = .idle ∧ job.todo = c :: rest ∧ c.rw = false ∧
      t = (s.drive (c.lines false)).withBlock (.busy { job with todo := rest, phase := .setup c })) ∨
    (∃ c, job.phase = .setup c ∧ t = raiseEnable job c s) ∨
    (∃ c, job.phase = .eHigh c ∧ t = lowerEnable job c s) ∨
    (∃ c, job.phase = .eLow c ∧ t = startWait job c s) ∨
    (∃ c, job.phase = .wait c ∧ t = endCall job c s) := by
  unfold tick at h
  rw [hb] at h
  cases hp : job.phase with
  | idle =>
    cases ht : job.todo with
    | nil =>
      simp only [hp, ht] at h
      cases h
      exact .inl ⟨rfl, rfl, rfl⟩
    | cons c rest =>
      simp only [hp, ht, startCall] at h
      split at h
      · cases h
      · next hrw =>
        cases h
        exact .inr (.inl ⟨c, rest, rfl, rfl, by simpa using hrw, by simp [Call.lines, Bool.not_eq_true _ ▸ hrw]⟩)
  | setup c =>
    simp only [hp] at h
    cases h
    exact .inr (.inr (.inl ⟨c, rfl, rfl⟩))
  | eHigh c =>
    simp only [hp] at h
    cases h
    exact .inr (.inr (.inr (.inl ⟨c, rfl, rfl⟩)))
  | eLow c =>
    simp only [hp] at h
    cases h
    exact .inr (.inr (.inr (.inr (.inl ⟨c, rfl, rfl⟩))))
  | wait c =>
    simp only [hp] at h
    cases h
    exact .inr (.inr (.inr (.inr (.inr ⟨c, rfl, rfl⟩))))

/-- The state after one whole call: its events and its word are in the traces, and L holds it with E false. -/
def State.afterCall (c : Call) (b : Block) (s : State) : State :=
  { s with lines := c.lines false, block := b, events := s.events ++ c.events, tTrace := s.tTrace ++ [c.txn] }

/-- One call takes its five transitions (40_bus_sequencer R97, R100). -/
theorem ticks_call (n : Nat) {s : State} {op : Instr} {c : Call} {rest : List Call} (hrw : c.rw = false) :
    ticks (n + 5) (s.withBlock (.busy { op := op, todo := c :: rest, phase := .idle })) =
      ticks n (s.afterCall c (.busy { op := op, todo := rest, phase := .idle })) := by
  simp [ticks, tick, startCall, hrw, raiseEnable, lowerEnable, startWait, endCall, State.withBlock, State.drive,
    State.driveE, State.pause, State.latch, State.afterCall, Call.events, Call.lines, Call.txn, drivenLines]

/-- The run of an accepted operation, all of it: when no call asks for a read, it ends in `State.afterSending`. -/
theorem transmit_eq (op : Instr) (calls : List Call) (s : State) (hrw : ∀ c ∈ calls, c.rw = false) :
    transmit op calls s = .next (s.afterSending op calls) := by
  unfold transmit jobLength State.accept
  induction calls generalizing s with
  | nil =>
    simp [ticks, tick, endJob, State.withBlock, State.report, State.afterSending, linesAfter]
  | cons c rest ih =>
    have h5 : 5 * (c :: rest).length + 1 = (5 * rest.length + 1) + 5 := by simp only [List.length_cons]; omega
    rw [h5, ticks_call _ (hrw c List.mem_cons_self)]
    have hb : s.afterCall c (.busy { op := op, todo := rest, phase := .idle }) =
        (s.afterCall c s.block).withBlock (.busy { op := op, todo := rest, phase := .idle }) := rfl
    rw [hb, ih _ fun x hx => hrw x (List.mem_cons_of_mem _ hx)]
    cases rest with
    | nil => simp [State.afterSending, State.afterCall, linesAfter]
    | cons c' rest => simp [State.afterSending, State.afterCall, linesAfter, List.getLast?_eq_some_getLast]

@[simp] theorem irCall_rw (d : Byte) (cls : DelayClass) : (irCall d cls).rw = false := rfl

@[simp] theorem drCall_rw (d : Byte) : (drCall d).rw = false := rfl

theorem transmit_ir (op : Instr) (d : Byte) (cls : DelayClass) (s : State) :
    transmit op [irCall d cls] s = .next (s.afterSending op [irCall d cls]) :=
  transmit_eq op _ s (by simp)

theorem transmit_dr (op : Instr) (d : Byte) (s : State) :
    transmit op [drCall d] s = .next (s.afterSending op [drCall d]) :=
  transmit_eq op _ s (by simp)

/-- Every call of a write_text is a write. -/
theorem textCalls_rw (codes : List Byte) : ∀ c ∈ textPreamble ++ codes.map drCall, c.rw = false := by
  intro c hc
  rcases List.mem_append.1 hc with h | h
  · simp only [textPreamble, List.mem_cons, List.not_mem_nil, or_false] at h
    rcases h with rfl | rfl | rfl | rfl | rfl <;> rfl
  · obtain ⟨d, -, rfl⟩ := List.mem_map.1 h
    rfl

theorem transmit_text (op : Instr) (codes : List Byte) (s : State) :
    transmit op (textPreamble ++ codes.map drCall) s = .next (s.afterSending op (textPreamble ++ codes.map drCall)) :=
  transmit_eq op _ s (textCalls_rw codes)

/-- A text resolves when every character does, one code a character, in order. -/
theorem resolveAll_eq_some_iff {table : Memory} {text : List CodePoint} {codes : List Byte} :
    resolveAll table text = some codes ↔ text.map (fun c => Memory.read table c.val) = codes.map some := by
  induction text generalizing codes with
  | nil => cases codes <;> simp [resolveAll]
  | cons c text ih =>
    simp only [resolveAll]
    cases hr : Memory.read table c.val with
    | none => cases codes <;> simp [hr]
    | some code =>
      cases ht : resolveAll table text with
      | none =>
        cases codes with
        | nil => simp
        | cons d ds =>
          have := (ih (codes := ds)).not.1 (by simp [ht])
          simp [hr, this]
      | some cs =>
        cases codes with
        | nil => simp
        | cons d ds =>
          have := ih (codes := ds)
          rw [ht] at this
          simp only [Option.some.injEq] at this
          simp [hr, this]

/-- A text does not resolve when some character is not a key. -/
theorem resolveAll_eq_none_iff {table : Memory} {text : List CodePoint} :
    resolveAll table text = none ↔ ∃ c ∈ text, Memory.read table c.val = none := by
  induction text with
  | nil => simp [resolveAll]
  | cons c text ih =>
    simp only [resolveAll]
    cases hr : Memory.read table c.val with
    | none => simp [hr]
    | some code =>
      cases ht : resolveAll table text with
      | none => simp [hr, ih.1 ht]
      | some cs =>
        have : ¬∃ c ∈ text, Memory.read table c.val = none := fun h => by simp [ih.2 h] at ht
        simpa [hr] using this

end Sys2Proof.Machine
end

