-- ==== Sys2Proof/Laws/Exec.lean ====
section
/-!
SUPPORT. Each meaning on a free block, on a busy one and on none: the acceptance taken away, the rest as it stands.
-/

namespace Sys2Proof.Machine

theorem execClearDisplay_idle {s : State} (h : s.block = .idle) :
    execClearDisplay s = transmit .clearDisplay [irCall cmdClearDisplay .long] s :=
  State.whenFree_idle _ h

theorem execReturnHome_idle {s : State} (h : s.block = .idle) :
    execReturnHome s = transmit .returnHome [irCall cmdReturnHome .long] s :=
  State.whenFree_idle _ h

theorem execEntryModeSet_idle {s : State} (decrement displayShift : Bool) (h : s.block = .idle) :
    execEntryModeSet decrement displayShift s =
      transmit (.entryModeSet decrement displayShift) [irCall (cmdEntryModeSet decrement displayShift) .short] s :=
  State.whenFree_idle _ h

theorem execDisplayControl_idle {s : State} (displayOn cursorOn blinkOn : Bool) (h : s.block = .idle) :
    execDisplayControl displayOn cursorOn blinkOn s =
      transmit (.displayControl displayOn cursorOn blinkOn) [irCall (cmdDisplayControl displayOn cursorOn blinkOn) .short] s :=
  State.whenFree_idle _ h

theorem execFunctionSet_idle {s : State} (dataLength8bit twoLine font5x10 : Bool) (h : s.block = .idle) :
    execFunctionSet dataLength8bit twoLine font5x10 s =
      transmit (.functionSet dataLength8bit twoLine font5x10)
        [irCall (cmdFunctionSet dataLength8bit twoLine font5x10) .short] s :=
  State.whenFree_idle _ h

theorem execSetDdramAddress_idle {s : State} {field : BitVec 7} {address : Int} (h : s.block = .idle)
    (hf : addressField address = some field) :
    execSetDdramAddress address s = transmit (.setDdramAddress address) [irCall (cmdSetDdramAddress field) .short] s := by
  simp [execSetDdramAddress, State.whenFree_idle _ h, hf]

theorem execSetDdramAddress_rangeError {s : State} {address : Int} (h : s.block = .idle) (hf : addressField address = none) :
    execSetDdramAddress address s = .next (s.raise (.setDdramAddress address) .rangeError) := by
  simp [execSetDdramAddress, State.whenFree_idle _ h, hf]

theorem execWriteData_idle {s : State} {d : Byte} {value : Int} (h : s.block = .idle) (hf : dataField value = some d) :
    execWriteData value s = transmit (.writeData value) [drCall d] s := by
  simp [execWriteData, State.whenFree_idle _ h, hf]

theorem execWriteData_rangeError {s : State} {value : Int} (h : s.block = .idle) (hf : dataField value = none) :
    execWriteData value s = .next (s.raise (.writeData value) .rangeError) := by
  simp [execWriteData, State.whenFree_idle _ h, hf]

theorem execResolveChar_key {s : State} {char : CodePoint} {code : Byte} (h : s.block = .idle)
    (hr : Memory.read s.charTab char.val = some code) :
    execResolveChar char s = .next (s.report (.resolveChar char) (.okCode code)) := by
  simp [execResolveChar, State.whenFree_idle _ h, hr]

theorem execResolveChar_absent {s : State} {char : CodePoint} (h : s.block = .idle)
    (hr : Memory.read s.charTab char.val = none) :
    execResolveChar char s = .next (s.raise (.resolveChar char) .lookupError) := by
  simp [execResolveChar, State.whenFree_idle _ h, hr]

theorem execWriteText_twoLine {s : State} (text : List CodePoint) (h : s.block = .idle) :
    execWriteText text true s = .next (s.raise (.writeText text true) .notImplemented) := by
  simp [execWriteText, State.whenFree_idle _ h]

theorem execWriteText_absent {s : State} {text : List CodePoint} (h : s.block = .idle)
    (hr : resolveAll s.charTab text = none) :
    execWriteText text false s = .next (s.raise (.writeText text false) .lookupError) := by
  simp [execWriteText, State.whenFree_idle _ h, hr]

theorem execWriteText_resolved {s : State} {text : List CodePoint} {codes : List Byte} (h : s.block = .idle)
    (hr : resolveAll s.charTab text = some codes) :
    execWriteText text false s = transmit (.writeText text false) (textPreamble ++ codes.map drCall) s := by
  simp [execWriteText, State.whenFree_idle _ h, hr]

/-- On a busy block every operation is held, whatever it is (10_state R25). -/
theorem exec_busy {s : State} {job : Job} (i : Instr) (h : s.block = .busy job) : exec i s = .next (s.hold i) := by
  cases i <;> simp [exec, execClearDisplay, execReturnHome, execEntryModeSet, execDisplayControl, execFunctionSet,
    execSetDdramAddress, execWriteData, execResolveChar, execWriteText, State.whenFree_busy _ h]

/-- Without a block every operation is refused (93 U10). -/
theorem exec_absent {s : State} (i : Instr) (h : s.block = .absent) : exec i s = .refused .notConstructed := by
  cases i <;> simp [exec, execClearDisplay, execReturnHome, execEntryModeSet, execDisplayControl, execFunctionSet,
    execSetDdramAddress, execWriteData, execResolveChar, execWriteText, State.whenFree_absent _ h]

end Sys2Proof.Machine
end

