-- ==== Sys2Proof/Laws/Memory.lean ====
section
/-!
SUPPORT. The laws of the character table: what a read gives after an entry is set, and that every operation keeps the
canonical form, the table of `State.reset` among them.
-/

namespace Sys2Proof.Machine

theorem Memory.read_insert_self (m : Memory) (k : Nat) (b : Byte) : Memory.read (Memory.insert m k b) k = some b := by
  induction m with
  | nil => simp [Memory.insert, Memory.read]
  | cons cell m ih =>
    obtain ⟨k', b'⟩ := cell
    simp only [Memory.insert]
    split_ifs with h1 h2
    · simp [Memory.read]
    · simp [Memory.read]
    · simp [Memory.read, Ne.symm h2, ih]

theorem Memory.read_insert_of_ne {a k : Nat} (hne : a ≠ k) (m : Memory) (b : Byte) :
    Memory.read (Memory.insert m k b) a = Memory.read m a := by
  induction m with
  | nil => simp [Memory.insert, Memory.read, hne.symm]
  | cons cell m ih =>
    obtain ⟨k', b'⟩ := cell
    simp only [Memory.insert]
    split_ifs with h1 h2
    · simp [Memory.read, hne.symm]
    · subst h2; simp [Memory.read, hne.symm]
    · simp [Memory.read, ih]

/-- Every key of the table after setting an entry is the entry's key or was a key before. -/
theorem Memory.mem_insert_key {m : Memory} {k : Nat} {b : Byte} {cell : Host.Cell} (h : cell ∈ Memory.insert m k b) :
    cell.1 = k ∨ cell ∈ m := by
  induction m with
  | nil => simp_all [Memory.insert]
  | cons c m ih =>
    obtain ⟨k', b'⟩ := c
    simp only [Memory.insert] at h
    split_ifs at h with h1 h2
    · rcases List.mem_cons.1 h with rfl | h
      · exact .inl rfl
      · exact .inr h
    · rcases List.mem_cons.1 h with rfl | h
      · exact .inl rfl
      · exact .inr (List.mem_cons_of_mem _ h)
    · rcases List.mem_cons.1 h with rfl | h
      · exact .inr List.mem_cons_self
      · exact (ih h).imp_right (List.mem_cons_of_mem _)

theorem Memory.insert_wf {m : Memory} {k : Nat} (hm : Memory.wf m) (hk : k < 0x110000) (b : Byte) :
    Memory.wf (Memory.insert m k b) := by
  refine ⟨?_, fun cell hc => (Memory.mem_insert_key hc).elim (fun h => h ▸ hk) (hm.2 cell)⟩
  induction m with
  | nil => simp [Memory.insert]
  | cons c m ih =>
    obtain ⟨k', b'⟩ := c
    obtain ⟨hlt, htail⟩ := List.pairwise_cons.1 hm.1
    simp only [Memory.insert]
    split_ifs with h1 h2
    · refine List.pairwise_cons.2 ⟨fun x hx => ?_, hm.1⟩
      rcases List.mem_cons.1 hx with rfl | hx
      · exact h1
      · exact h1.trans (hlt x hx)
    · subst h2
      exact List.pairwise_cons.2 ⟨hlt, htail⟩
    · refine List.pairwise_cons.2 ⟨fun x hx => ?_, ih ⟨htail, fun x hx => hm.2 x (List.mem_cons_of_mem _ hx)⟩⟩
      rcases Memory.mem_insert_key hx with h | hx
      · show k' < x.1
        omega
      · exact hlt x hx

theorem Memory.ofCells_wf (cells : List Host.Cell) : Memory.wf (Memory.ofCells cells) := by
  unfold Memory.ofCells
  have hall : ∀ cell ∈ cells.filter (fun cell => cell.1 < 0x110000), cell.1 < 0x110000 := by
    intro cell h
    simpa using (List.mem_filter.1 h).2
  revert hall
  generalize cells.filter (fun cell => cell.1 < 0x110000) = kept
  intro hall
  induction kept with
  | nil => exact ⟨List.Pairwise.nil, fun _ h => nomatch h⟩
  | cons c kept ih =>
    exact Memory.insert_wf (ih fun x hx => hall x (List.mem_cons_of_mem _ hx)) (hall c List.mem_cons_self) _

theorem charTabAtConstruction_wf : Memory.wf charTabAtConstruction :=
  Memory.insert_wf (Memory.ofCells_wf _) (by decide) _

/-- `CHARTAB('A') = 0x41` (42_data_and_text R138 (b)). -/
theorem charTabAtConstruction_letterA : Memory.read charTabAtConstruction 0x41 = some 0x41#8 :=
  Memory.read_insert_self _ _ _

theorem State.reset_table_wf : Memory.wf State.reset.charTab := charTabAtConstruction_wf

end Sys2Proof.Machine
end

