-- ==== Sys2Proof/Laws/Ops.lean ====
section
/-!
SUPPORT. What the smaller shared operations do: the bit extraction, the choice among held requests, and what one
transition of the sequencer leaves alone.
-/

namespace Sys2Proof.Machine

/-- The masked byte is nonzero exactly when the bit is 1 (20_memory R46). -/
theorem maskBit_eq (d : Byte) {i : Nat} (hi : i < 8) : maskBit d i = d.getLsbD i := by
  have h2 : BitVec.twoPow 8 i ≠ 0#8 := by
    intro h
    have := congrArg (fun w => BitVec.getLsbD w i) h
    simp [hi] at this
  unfold maskBit
  rw [BitVec.and_twoPow]
  cases d.getLsbD i <;> simp [h2]

/-- Taking at an index below the length splits the list there. -/
theorem takeAt_of_lt {held : List Instr} {k : Nat} (h : k < held.length) :
    ∃ before i after, held = before ++ i :: after ∧ takeAt held k = some (i, before ++ after) := by
  induction held generalizing k with
  | nil => simp at h
  | cons x rest ih =>
    cases k with
    | zero => exact ⟨[], x, rest, rfl, rfl⟩
    | succ k =>
      obtain ⟨before, i, after, rfl, h2⟩ := ih (k := k) (by simpa using h)
      exact ⟨x :: before, i, after, rfl, by simp [takeAt, h2]⟩

/-- Everything an admission can be: none when no request is held, otherwise one of them, the others staying held in
their order. -/
theorem State.admission_cases (s : State) :
    (s.waiting = [] ∧ s.admission = none) ∨
    (∃ before i after, s.waiting = before ++ i :: after ∧
      s.admission = some (i, { s with waiting := before ++ after, admissions := s.admissions + 1 })) := by
  match hw : s.waiting with
  | [] => exact .inl ⟨rfl, by simp [State.admission, hw]⟩
  | [i] => exact .inr ⟨[], i, [], rfl, by simp [State.admission, hw]⟩
  | i :: j :: rest =>
    obtain ⟨before, x, after, h1, h2⟩ := takeAt_of_lt (held := i :: j :: rest)
      (k := Config.nextCaller s.admissions % (rest.length + 2))
      (by simpa using Nat.mod_lt (Config.nextCaller s.admissions) (Nat.succ_pos (rest.length + 1)))
    exact .inr ⟨before, x, after, h1, by simp only [State.admission, hw, h2, Option.map_some]⟩

/-- What a transition leaves alone. -/
theorem tick_keeps {s t : State} (h : tick s = .next t) :
    t.waiting = s.waiting ∧ t.admissions = s.admissions ∧ t.charTab = s.charTab ∧ t.pinMap = s.pinMap ∧
      t.pinDir = s.pinDir := by
  cases hb : s.block with
  | absent => simp [tick, hb] at h
  | idle =>
    simp only [tick, hb] at h
    cases h
    exact ⟨rfl, rfl, rfl, rfl, rfl⟩
  | busy job =>
    rcases tick_busy_cases hb h with ⟨-, -, rfl⟩ | ⟨c, rest, -, -, -, rfl⟩ | ⟨c, -, rfl⟩ | ⟨c, -, rfl⟩ | ⟨c, -, rfl⟩ | ⟨c, -, rfl⟩ <;>
      exact ⟨rfl, rfl, rfl, rfl, rfl⟩

end Sys2Proof.Machine
end

