-- ==== Sys2Proof/Laws/PerInstr.lean ====
section
/-!
SUPPORT. Facts of every operation as syntax, one lemma per constructor. `WriteOnly`: the bus word of an operation,
where it has one, carries RW = 0 (30_encoding R62, 20_memory R55).
-/

namespace Sys2Proof.Laws.WriteOnly

/-- Where the operation has one bus word, its RW bit is 0. -/
def Statement (i : Instr) : Prop := ∀ w, encode i = some w → w.getLsbD 8 = false

/-- The word an encoding forms has the RW it was formed with. -/
theorem of_some {rs : Bool} {d : Byte} {w : BusWord} (h : some (busWord rs false d) = some w) : w.getLsbD 8 = false := by
  cases h
  exact busWord_rw rs false d

theorem clearDisplay : Statement .clearDisplay := fun _ h => of_some h

theorem returnHome : Statement .returnHome := fun _ h => of_some h

theorem entryModeSet (decrement displayShift : Bool) : Statement (.entryModeSet decrement displayShift) :=
  fun _ h => of_some h

theorem displayControl (displayOn cursorOn blinkOn : Bool) : Statement (.displayControl displayOn cursorOn blinkOn) :=
  fun _ h => of_some h

theorem functionSet (dataLength8bit twoLine font5x10 : Bool) : Statement (.functionSet dataLength8bit twoLine font5x10) :=
  fun _ h => of_some h

theorem setDdramAddress (address : Int) : Statement (.setDdramAddress address) := by
  intro w h
  obtain ⟨field, -, rfl⟩ := Option.map_eq_some_iff.1 h
  exact busWord_rw _ _ _

theorem writeData (value : Int) : Statement (.writeData value) := by
  intro w h
  obtain ⟨d, -, rfl⟩ := Option.map_eq_some_iff.1 h
  exact busWord_rw _ _ _

theorem resolveChar (char : CodePoint) : Statement (.resolveChar char) := fun _ h => nomatch h

theorem writeText (text : List CodePoint) (twoLine : Bool) : Statement (.writeText text twoLine) := fun _ h => nomatch h

end Sys2Proof.Laws.WriteOnly
end

