-- ==== Sys2Proof/Tests/Slice0.lean ====
section
/-!
SUPPORT. The model's own tests, with the expected values of spec/95_test_vectors.md, and a witness for the hypotheses
of every statement that has some.
-/

namespace Sys2Proof.Tests

open Sys2Proof Sys2Proof.Machine

/-- The test table CT1 of 95: 'A', 'B', ' ', 'H', 'i' and nothing else. -/
def tableCt1 : Memory := [(0x20, 0x20#8), (0x41, 0x41#8), (0x42, 0x42#8), (0x48, 0x48#8), (0x69, 0x69#8)]

/-- A freshly constructed block with the table CT1. -/
def fresh : State := { State.reset with charTab := tableCt1 }

/-- The block after `write_data(0x41)`: L = (1, 0, 0, 0x41). -/
def afterA : State := fresh.afterSending (.writeData 0x41) [drCall 0x41#8]

/-- A test on the next state, false at a fault or a refusal. -/
def nextIs (o : Host.Outcome State Fault Refusal) (p : State → Bool) : Bool :=
  match o with
  | .next s => p s
  | .fault r => nomatch r
  | .refused _ => false

/-- Is the outcome this refusal? -/
def refusedBy (o : Host.Outcome State Fault Refusal) (r : Refusal) : Bool :=
  match o with
  | .next _ => false
  | .fault f => nomatch f
  | .refused r' => r' == r

/-- The T-trace grew by these bus words and the operation was told this. -/
def grewBy (words : List BusWord) (answer : Answer) (s t : State) : Bool :=
  decide (t.tTrace.map Txn.word = s.tTrace.map Txn.word ++ words) &&
    decide (t.reports.map Report.answer = s.reports.map Report.answer ++ [answer])

/-! WellFormed: an ill-formed term for each check, which the check refuses. -/

theorem test_wellFormed_refuses_address_128 : (Instr.setDdramAddress 128).wellFormed = false := by decide
theorem test_wellFormed_refuses_address_negative : (Instr.setDdramAddress (-1)).wellFormed = false := by decide
theorem test_wellFormed_refuses_value_256 : (Instr.writeData 256).wellFormed = false := by decide
theorem test_wellFormed_refuses_value_negative : (Instr.writeData (-1)).wellFormed = false := by decide
theorem test_wellFormed_refuses_two_lines : (Instr.writeText [0x41] true).wellFormed = false := by decide
theorem test_wellFormed_accepts_bounds :
    (Instr.setDdramAddress 127).wellFormed && (Instr.writeData 255).wellFormed && (Instr.writeText [] false).wellFormed := by
  decide

/-! Decoding: a word written out bit by bit from R63 for every row, the table of 95 section 2.6, and the rejects. -/

theorem test_decode_clear_display : decode 0b0000000001#10 = some .clearDisplay := by decide
theorem test_decode_return_home : decode 0b0000000010#10 = some .returnHome := by decide
theorem test_decode_entry_mode_set : decode 0b0000000100#10 = some (.entryModeSet true false) := by decide
theorem test_decode_display_control : decode 0b0000001010#10 = some (.displayControl false true false) := by decide
theorem test_decode_function_set : decode 0b0000110100#10 = some (.functionSet true false true) := by decide
theorem test_decode_set_ddram_address : decode 0b0011010101#10 = some (.setDdramAddress 85) := by decide
theorem test_decode_write_data : decode 0b1010101010#10 = some (.writeData 170) := by decide
theorem test_decode_rejects_by_name :
    [0x000#10, 0x003#10, 0x010#10, 0x01F#10, 0x021#10, 0x033#10, 0x03F#10, 0x040#10, 0x07F#10, 0x100#10, 0x1FF#10, 0x300#10, 0x3FF#10].map
      (fun w => match decodeNamed w with | .ok _ => none | .error e => some e) =
    [some .noRow, some .noRow, some .leadingDb4, some .leadingDb4, some .functionSetLowBits, some .functionSetLowBits,
     some .functionSetLowBits, some .leadingDb6, some .leadingDb6, some .readWriteSet, some .readWriteSet,
     some .readWriteSet, some .readWriteSet] := by decide
theorem test_encode_address_127 : encode (.setDdramAddress 127) = some 0b0011111111#10 := by decide
theorem test_encode_value_255 : encode (.writeData 255) = some 0b1011111111#10 := by decide
theorem test_decodeTableWord_two_bytes : decodeTableWord 16 0x0080 = some (.setDdramAddress 0) := by decide

/-! The operations (95 sections 2.2 to 2.5). -/

theorem test_clear_display : nextIs (exec .clearDisplay afterA) (grewBy [0x001#10] .ok afterA) := by decide
theorem test_clear_display_waits_long :
    nextIs (exec .clearDisplay fresh) fun t => t.events.contains (.wait (.tExec .long)) && !t.events.contains (.wait (.tExec .short)) := by
  decide
theorem test_return_home : nextIs (exec .returnHome fresh) (grewBy [0x002#10] .ok fresh) := by decide
theorem test_entry_mode_set_inverts : nextIs (exec (.entryModeSet false false) fresh) (grewBy [0x006#10] .ok fresh) := by
  decide
theorem test_entry_mode_set_shift : nextIs (exec (.entryModeSet true true) fresh) (grewBy [0x005#10] .ok fresh) := by
  decide
theorem test_display_control_cursor : nextIs (exec (.displayControl false true false) fresh) (grewBy [0x00A#10] .ok fresh) := by
  decide
theorem test_display_control_on : nextIs (exec (.displayControl true false false) fresh) (grewBy [0x00C#10] .ok fresh) := by
  decide
theorem test_function_set_two_line : nextIs (exec (.functionSet true true false) fresh) (grewBy [0x038#10] .ok fresh) := by
  decide
theorem test_function_set_four_bit : nextIs (exec (.functionSet false false true) fresh) (grewBy [0x024#10] .ok fresh) := by
  decide
theorem test_set_ddram_address_127 : nextIs (exec (.setDdramAddress 127) fresh) (grewBy [0x0FF#10] .ok fresh) := by decide
theorem test_set_ddram_address_255_is_not_masked :
    nextIs (exec (.setDdramAddress 255) fresh) (fun t => t == fresh.afterReport (.setDdramAddress 255) (.error .rangeError)) := by
  rfl
theorem test_write_data_lines :
    nextIs (exec (.writeData 0x41) fresh) fun t => t.lines ==
      { rs := some true, rw := some false, e := false, db7 := some false, db6 := some true, db5 := some false,
        db4 := some false, db3 := some false, db2 := some false, db1 := some false, db0 := some true } := by
  decide
theorem test_write_data_257_is_not_masked : nextIs (exec (.writeData 257) fresh) (grewBy [] (.error .rangeError) fresh) := by
  decide
theorem test_resolve_char_B : nextIs (exec (.resolveChar 0x42) fresh) (grewBy [] (.okCode 0x42#8) fresh) := by decide
theorem test_resolve_char_gap : nextIs (exec (.resolveChar 0x20AC) fresh) (grewBy [] (.error .lookupError) fresh) := by
  decide
theorem test_write_text_A :
    nextIs (exec (.writeText [0x41] false) fresh) (grewBy [0x001#10, 0x080#10, 0x030#10, 0x00C#10, 0x006#10, 0x241#10] .ok fresh) := by
  decide
theorem test_write_text_gap_last_sends_nothing :
    nextIs (exec (.writeText [0x41, 0x42, 0x3F] false) afterA) (grewBy [] (.error .lookupError) afterA) := by decide

/-! The primitive and the step (95 sections 2.1 and 2.8, program P5). -/

theorem test_primitive_three_line_values :
    nextIs (exec .clearDisplay fresh) fun t => t.lTrace ==
      [drivenLines false false false 0x01#8, drivenLines false false true 0x01#8, drivenLines false false false 0x01#8] := by
  decide
theorem test_bit_lines_of_C0 :
    (drivenLines false false false 0xC0#8).db7 = some true ∧ (drivenLines false false false 0xC0#8).db6 = some true ∧
      (drivenLines false false false 0xC0#8).db5 = some false ∧ (drivenLines false false false 0xC0#8).db0 = some false := by
  decide
theorem test_step_runs_first_word_after_reset :
    nextIs (step (State.reset.withFetchWord 16 0x241)) (grewBy [0x241#10] .ok State.reset) := by decide
theorem test_idle_step_does_nothing : nextIs (step fresh) (fun t => t.lines == fresh.lines && t.reports == []) := by decide
theorem test_busy_holds_second_caller :
    nextIs (exec .clearDisplay (fresh.accept (.writeData 1) [drCall 1#8])) fun t => t.busy && t.waiting == [.clearDisplay] := by
  decide
theorem test_read_call_is_refused :
    refusedBy (step (fresh.accept .clearDisplay [{ rs := false, rw := true, d := 0#8, cls := .short }])) .readTransaction := by
  decide
theorem test_construct_reversed_pins :
    nextIs (exec (.writeData 1) (construct [11, 10, 9, 8, 7, 6, 5, 4, 3, 2, 1] fun _ => true).state) fun t =>
      t.pinLevel 8 == some true && t.pinLevel 1 == some false && t.pinLevel 11 == some true && t.pinLevel 10 == some false &&
        t.pinLevel 9 == some false && t.pinLevel 12 == none := by
  decide
theorem test_construct_pin_seven_refused :
    (construct [1, 2, 3, 4, 5, 6, 7, 8, 9, 10, 11] fun p => p != 7).answer = .error .constructionFailure ∧
      (construct [1, 2, 3, 4, 5, 6, 7, 8, 9, 10, 11] fun p => p != 7).asked = [1, 2, 3, 4, 5, 6, 7] := by decide

/-! Witnesses: for each statement with hypotheses, data that meet them all, at the bounds where there are some. -/

/-- A state that meets the invariant. -/
theorem fresh_inv : fresh.Inv :=
  ⟨by decide, by decide, by decide, rfl, rfl, rfl, (fun _ h => nomatch h), (fun _ h => nomatch h)⟩

theorem witness_ConstructionIsAllOrNothing_succeeds :
    [1, 2, 3, 4, 5, 6, 7, 8, 9, 10, 11].length = 11 ∧ [1, 2, 3, 4, 5, 6, 7, 8, 9, 10, 11].Nodup ∧
      ∀ p ∈ [1, 2, 3, 4, 5, 6, 7, 8, 9, 10, 11], (fun _ : Nat => true) p = true := by decide
theorem witness_ConstructionIsAllOrNothing_fails :
    ¬([1, 2, 3, 4, 5, 6, 7, 8, 9, 10, 10].length = 11 ∧ [1, 2, 3, 4, 5, 6, 7, 8, 9, 10, 10].Nodup) ∧
      ¬([1, 2, 3, 4, 5, 6, 7, 8, 9, 10].length = 11 ∧ [1, 2, 3, 4, 5, 6, 7, 8, 9, 10].Nodup) := by decide
theorem witness_UnconstructedBlockRefuses : noBlock.block = .absent := rfl
theorem witness_AddressFieldIsExactOrRangeError :
    ((-1 : Int) < 0 ∨ 127 < (-1 : Int)) ∧ ((128 : Int) < 0 ∨ 127 < (128 : Int)) ∧ (0 ≤ (0 : Int) ∧ (0 : Int) ≤ 127) ∧
      (0 ≤ (127 : Int) ∧ (127 : Int) ≤ 127) ∧ fresh.block = .idle := by decide
theorem witness_DataByteIsVerbatimOrRangeError :
    ((-1 : Int) < 0 ∨ 255 < (-1 : Int)) ∧ ((256 : Int) < 0 ∨ 255 < (256 : Int)) ∧ (0 ≤ (0 : Int) ∧ (0 : Int) ≤ 255) ∧
      (0 ≤ (255 : Int) ∧ (255 : Int) ≤ 255) ∧ fresh.block = .idle := by decide
theorem witness_DecodeInvertsEncode :
    (Instr.setDdramAddress 127).singleWord = true ∧ (Instr.setDdramAddress 127).wellFormed = true := by decide
theorem witness_EncodeInvertsDecode : decode 0x2FF#10 = some (.writeData 255) := by decide
theorem witness_ClearDisplaySendsItsWord : afterA.block = .idle := rfl
theorem witness_ReturnHomeSendsItsWord : afterA.block = .idle := rfl
theorem witness_EntryModeSetSendsItsWord : fresh.block = .idle := rfl
theorem witness_DisplayControlSendsItsWord : fresh.block = .idle := rfl
theorem witness_FunctionSetSendsItsWord : fresh.block = .idle := rfl
theorem witness_SetDdramAddressSendsOrFails :
    fresh.block = .idle ∧ (0 ≤ (0 : Int) ∧ (0 : Int) ≤ 127) ∧ (0 ≤ (127 : Int) ∧ (127 : Int) ≤ 127) ∧
      ((128 : Int) < 0 ∨ 127 < (128 : Int)) ∧ ((-1 : Int) < 0 ∨ 127 < (-1 : Int)) := by decide
theorem witness_WriteDataSendsOrFails :
    fresh.block = .idle ∧ (0 ≤ (0 : Int) ∧ (0 : Int) ≤ 255) ∧ (0 ≤ (255 : Int) ∧ (255 : Int) ≤ 255) ∧
      ((256 : Int) < 0 ∨ 255 < (256 : Int)) ∧ ((-1 : Int) < 0 ∨ 255 < (-1 : Int)) := by decide
theorem witness_ResolveCharAnswersOrFails :
    fresh.block = .idle ∧ Memory.read fresh.charTab (0x48 : CodePoint).val = some 0x48#8 ∧
      Memory.read fresh.charTab (0x3F : CodePoint).val = none := by decide
theorem witness_WriteTextSendsPreambleThenCodes :
    fresh.block = .idle ∧
      ([0x48, 0x69] : List CodePoint).map (fun c => Memory.read fresh.charTab c.val) = [0x48#8, 0x69#8].map some ∧
      ([] : List CodePoint).map (fun c => Memory.read fresh.charTab c.val) = [].map some := by decide
theorem witness_WriteTextChecksBeforeSending :
    fresh.block = .idle ∧ ∃ c ∈ ([0x41, 0x3F] : List CodePoint), Memory.read fresh.charTab c.val = none :=
  ⟨rfl, 0x3F, by decide, by decide⟩
theorem witness_WriteTextIsItsExpansion :
    afterA.block = .idle ∧
      ([0x42, 0x20, 0x41] : List CodePoint).map (fun c => Memory.read afterA.charTab c.val) = [0x42#8, 0x20#8, 0x41#8].map some := by
  decide
theorem witness_WriteTextOfLetterA : fresh.block = .idle ∧ Memory.read fresh.charTab 0x41 = some 0x41#8 := by decide
theorem witness_AsciiKeyResolvesToItself :
    fresh.block = .idle ∧ AsciiIdentity fresh.charTab ∧ 0x20 ≤ (0x69 : CodePoint).val ∧ (0x69 : CodePoint).val ≤ 0x7E ∧
      (Memory.read fresh.charTab (0x69 : CodePoint).val).isSome = true := by
  refine ⟨rfl, fun c _ _ code h => ?_, by decide, by decide, by decide⟩
  have hread : Memory.read tableCt1 c.val = some code := h
  simp only [tableCt1, Memory.read] at hread
  split_ifs at hread <;> cases hread <;> simp_all <;> omega
theorem witness_LinesHoldTheLastWord :
    fresh.block = .idle ∧ exec (.writeData 255) fresh = .next (fresh.afterSending (.writeData 255) [drCall 0xFF#8]) ∧
      (fresh.afterSending (.writeData 255) [drCall 0xFF#8]).tTrace = fresh.tTrace ++ [⟨true, false, 0xFF#8⟩] ∧
      [(⟨true, false, 0xFF#8⟩ : Txn)].getLast? = some ⟨true, false, 0xFF#8⟩ :=
  ⟨rfl, rfl, rfl, rfl⟩
theorem witness_OperationFrame :
    fresh.block = .idle ∧ exec .clearDisplay fresh = .next (fresh.afterSending .clearDisplay [irCall 0x01#8 .long]) :=
  ⟨rfl, rfl⟩
theorem witness_ErrorsHaveExactlyTheirCauses :
    fresh.block = .idle ∧
      exec (.setDdramAddress 128) fresh = .next (fresh.afterReport (.setDdramAddress 128) (.error .rangeError)) :=
  ⟨rfl, rfl⟩
theorem witness_FailedOperationWritesNothing :
    afterA.block = .idle ∧ exec (.writeText [0x41] true) afterA =
        .next (afterA.afterReport (.writeText [0x41] true) (.error .notImplemented)) ∧
      (afterA.afterReport (.writeText [0x41] true) (.error .notImplemented)).reports =
        afterA.reports ++ [{ op := .writeText [0x41] true, answer := .error .notImplemented }] :=
  ⟨rfl, rfl, rfl⟩
theorem witness_OperationIgnoresPriorState :
    fresh.block = .idle ∧ afterA.block = .idle ∧ fresh.charTab = afterA.charTab ∧
      exec .returnHome fresh = .next (fresh.afterSending .returnHome [irCall 0x02#8 .long]) ∧
      exec .returnHome afterA = .next (afterA.afterSending .returnHome [irCall 0x02#8 .long]) :=
  ⟨rfl, rfl, rfl, rfl, rfl⟩
theorem witness_LatchedWordsAreOfTwoClasses :
    afterA.block = .idle ∧ exec (.writeData 255) afterA = .next (afterA.afterSending (.writeData 255) [drCall 0xFF#8]) ∧
      (afterA.afterSending (.writeData 255) [drCall 0xFF#8]).tTrace = afterA.tTrace ++ [⟨true, false, 0xFF#8⟩] ∧
      (⟨true, false, 0xFF#8⟩ : Txn) ∈ [(⟨true, false, 0xFF#8⟩ : Txn)] :=
  ⟨rfl, rfl, rfl, List.mem_singleton.2 rfl⟩
theorem witness_TransactionCountLaw :
    fresh.block = .idle ∧ exec (.writeData 0) fresh = .next (fresh.afterSending (.writeData 0) [drCall 0x00#8]) :=
  ⟨rfl, rfl⟩
theorem witness_OnlyClearAndHomeWaitLong :
    fresh.block = .idle ∧ (Instr.writeData 255).singleWord = true ∧ (Instr.writeData 255).wellFormed = true := by decide
theorem witness_TraceIsConcatenationInOrder : afterA.block = .idle := rfl
theorem witness_StepRunsTheDecodedOperation :
    decodeTableWord 16 0x0FF = some (.setDdramAddress 127) ∧ decodeTableWord 10 0x2FF = some (.writeData 255) := by decide
theorem witness_FreeBlockAdmitsOneHeldCaller :
    fresh.block = .idle ∧ fresh.waiting = [] ∧ (fresh.hold .clearDisplay).block = .idle ∧
      (fresh.hold .clearDisplay).waiting ≠ [] ∧ ((fresh.hold .clearDisplay).hold (.writeData 65)).waiting ≠ [] := by decide
theorem witness_BusyBlockHoldsCallers :
    (fresh.accept .clearDisplay [irCall 0x01#8 .long]).block = .busy ⟨.clearDisplay, [irCall 0x01#8 .long], .idle⟩ ∧
      ∃ t, step (fresh.accept .clearDisplay [irCall 0x01#8 .long]) = .next t :=
  ⟨rfl, _, rfl⟩
theorem witness_SequencerMovesAsTheTable (p : Phase) :
    (fresh.withBlock (.busy ⟨.writeData 65, [drCall 0x41#8], p⟩)).block = .busy ⟨.writeData 65, [drCall 0x41#8], p⟩ ∧
      (fresh.withBlock (.busy ⟨.writeData 65, [], p⟩)).block = .busy ⟨.writeData 65, [], p⟩ ∧ (drCall 0x41#8).rw = false :=
  ⟨rfl, rfl, rfl⟩
theorem witness_ReadTransactionIsRefused :
    (fresh.accept .clearDisplay [⟨false, true, 0#8, .short⟩]).block = .busy ⟨.clearDisplay, [⟨false, true, 0#8, .short⟩], .idle⟩ ∧
      (⟨false, true, 0#8, .short⟩ : Call).rw = true :=
  ⟨rfl, rfl⟩
theorem witness_SteppedRunReachesTheWholeOperation_exec :
    fresh.block = .idle ∧ exec (.writeData 255) fresh = .next (fresh.afterSending (.writeData 255) [drCall 0xFF#8]) ∧
      (fresh.afterSending (.writeData 255) [drCall 0xFF#8]).reports =
        fresh.reports ++ [{ op := .writeData 255, answer := .ok }] :=
  ⟨rfl, rfl, rfl⟩
theorem witness_SteppedRunReachesTheWholeOperation_calls :
    ∀ c ∈ [irCall 0x01#8 .long, drCall 0x41#8], c.rw = false := by decide
theorem witness_OperationInProgressEnds :
    (fresh.withBlock (.busy ⟨.writeData 65, [drCall 0x42#8], .setup (drCall 0x41#8)⟩)).block =
        .busy ⟨.writeData 65, [drCall 0x42#8], .setup (drCall 0x41#8)⟩ ∧
      ∀ c ∈ (fresh.withBlock (.busy ⟨.writeData 65, [drCall 0x42#8], .setup (drCall 0x41#8)⟩)).calls, c.rw = false := by
  decide
theorem witness_ConstructedBlockNeverStops :
    (fresh.accept .clearDisplay [irCall 0x01#8 .long]).block ≠ .absent ∧
      ∀ c ∈ (fresh.accept .clearDisplay [irCall 0x01#8 .long]).calls, c.rw = false := by decide
theorem witness_TableAndPinsNeverChange :
    step (fresh.offer .clearDisplay) = .next ({ fresh with admissions := 1 }.afterSending .clearDisplay [irCall 0x01#8 .long]) ∧
      exec .clearDisplay fresh = .next (fresh.afterSending .clearDisplay [irCall 0x01#8 .long]) :=
  ⟨rfl, rfl⟩
theorem witness_TracesOnlyGrow :
    step (afterA.offer .returnHome) = .next ({ afterA with admissions := 1 }.afterSending .returnHome [irCall 0x02#8 .long]) := rfl
theorem witness_StepKeepsInvariant :
    fresh.Inv ∧ (∃ t, step fresh = .next t) :=
  ⟨fresh_inv, _, rfl⟩
theorem witness_StepKeepsInvariant_operation :
    (fresh.hold (.writeText [0x41] false)).Inv ∧ (∃ t, step (fresh.hold (.writeText [0x41] false)) = .next t) :=
  ⟨⟨by decide, by decide, by decide, rfl, rfl, rfl, (fun _ h => nomatch h), (fun _ h => nomatch h)⟩, _, rfl⟩
theorem afterA_inv : afterA.Inv := ⟨by decide, by decide, by decide, by decide, by decide, by decide, by decide, by decide⟩
theorem witness_LinesAreStableWhileEnabled :
    afterA.Inv ∧ afterA.lTrace[0]? = some (drivenLines true false false 0x41#8) ∧
      afterA.lTrace[1]? = some (drivenLines true false true 0x41#8) ∧ (drivenLines true false true 0x41#8).e = true :=
  ⟨afterA_inv, rfl, rfl, rfl⟩
theorem witness_PinsCarryTheirLines : fresh.pinMap.ids.Nodup ∧ 12 ∉ fresh.pinMap.ids := by decide

end Sys2Proof.Tests
end

/-! What an operation and a step can do, said once each, and what follows for the fields neither of them writes. -/

namespace Sys2Proof.Machine

/-- Every operation on a free block ends in one of two ways: all its calls are writes and were sent, or it sent nothing
and only reports an answer other than ok (00_scope R4, 60_exceptions R150; 42_data_and_text R131). -/
theorem exec_idle_cases {s : State} (i : Instr) (h : s.block = .idle) :
    (∃ calls, (∀ c ∈ calls, c.rw = false) ∧ exec i s = .next (s.afterSending i calls)) ∨
    (∃ answer, answer ≠ .ok ∧ exec i s = .next (s.afterReport i answer)) := by
  cases i with
  | clearDisplay => exact .inl ⟨_, by simp, (execClearDisplay_idle h).trans (transmit_ir ..)⟩
  | returnHome => exact .inl ⟨_, by simp, (execReturnHome_idle h).trans (transmit_ir ..)⟩
  | entryModeSet => exact .inl ⟨_, by simp, (execEntryModeSet_idle _ _ h).trans (transmit_ir ..)⟩
  | displayControl => exact .inl ⟨_, by simp, (execDisplayControl_idle _ _ _ h).trans (transmit_ir ..)⟩
  | functionSet => exact .inl ⟨_, by simp, (execFunctionSet_idle _ _ _ h).trans (transmit_ir ..)⟩
  | setDdramAddress address =>
    cases hf : addressField address with
    | none => exact .inr ⟨.error .rangeError, nofun, execSetDdramAddress_rangeError h hf⟩
    | some field => exact .inl ⟨_, by simp, (execSetDdramAddress_idle h hf).trans (transmit_ir ..)⟩
  | writeData value =>
    cases hf : dataField value with
    | none => exact .inr ⟨.error .rangeError, nofun, execWriteData_rangeError h hf⟩
    | some d => exact .inl ⟨_, by simp, (execWriteData_idle h hf).trans (transmit_dr ..)⟩
  | resolveChar char =>
    cases hr : Memory.read s.charTab char.val with
    | none => exact .inr ⟨.error .lookupError, nofun, execResolveChar_absent h hr⟩
    | some code => exact .inr ⟨.okCode code, nofun, execResolveChar_key h hr⟩
  | writeText text twoLine =>
    cases twoLine with
    | true => exact .inr ⟨.error .notImplemented, nofun, execWriteText_twoLine text h⟩
    | false =>
      cases hr : resolveAll s.charTab text with
      | none => exact .inr ⟨.error .lookupError, nofun, execWriteText_absent h hr⟩
      | some codes => exact .inl ⟨_, textCalls_rw codes, (execWriteText_resolved h hr).trans (transmit_text ..)⟩

/-- Everything an operation that answers a next state can do: be held on a busy block (10_state R25), or end on a free
one as `exec_idle_cases` says. -/
theorem exec_cases {i : Instr} {s t : State} (h : exec i s = .next t) :
    (∃ job, s.block = .busy job ∧ t = s.hold i) ∨
    (s.block = .idle ∧ ∃ calls, (∀ c ∈ calls, c.rw = false) ∧ t = s.afterSending i calls) ∨
    (s.block = .idle ∧ ∃ answer, answer ≠ .ok ∧ t = s.afterReport i answer) := by
  cases hb : s.block with
  | absent => rw [exec_absent i hb] at h; cases h
  | busy job => rw [exec_busy i hb] at h; cases h; exact .inl ⟨job, rfl, rfl⟩
  | idle =>
    obtain ⟨calls, hrw, he⟩ | ⟨answer, hne, he⟩ := exec_idle_cases i hb
    · rw [he] at h; cases h; exact .inr (.inl ⟨rfl, calls, hrw, rfl⟩)
    · rw [he] at h; cases h; exact .inr (.inr ⟨rfl, answer, hne, rfl⟩)

/-- Everything a step that answers a next state can do: one transition of the operation in progress (40_bus_sequencer
R97), nothing on a free block with no request held, or the run of the request a free block admits (20_memory R53). -/
theorem step_cases {s t : State} (h : step s = .next t) :
    (∃ job, s.block = .busy job ∧ tick s = .next t) ∨
    (s.block = .idle ∧ s.waiting = [] ∧ t = s) ∨
    (s.block = .idle ∧ ∃ before i after, s.waiting = before ++ i :: after ∧
      exec i { s with waiting := before ++ after, admissions := s.admissions + 1 } = .next t) := by
  cases hb : s.block with
  | absent => simp [step, hb] at h
  | busy job => exact .inl ⟨job, rfl, by simpa only [step, hb] using h⟩
  | idle =>
    obtain ⟨hw, ha⟩ | ⟨before, i, after, hw, ha⟩ := s.admission_cases <;> simp only [step, hb, ha] at h
    · cases h; exact .inr (.inl ⟨rfl, hw, rfl⟩)
    · exact .inr (.inr ⟨rfl, before, i, after, hw, h⟩)

/-- 10_state R26, R23, R21: no operation writes the table, the binding or the direction. -/
theorem exec_keeps_table_and_pins {i : Instr} {s t : State} (h : exec i s = .next t) :
    t.charTab = s.charTab ∧ t.pinMap = s.pinMap ∧ t.pinDir = s.pinDir := by
  obtain ⟨job, -, rfl⟩ | ⟨-, calls, -, rfl⟩ | ⟨-, answer, -, rfl⟩ := exec_cases h <;> simp

/-- Neither a transition nor an admission writes them, so no step does. -/
theorem step_keeps_table_and_pins {s t : State} (h : step s = .next t) :
    t.charTab = s.charTab ∧ t.pinMap = s.pinMap ∧ t.pinDir = s.pinDir := by
  obtain ⟨job, -, ht⟩ | ⟨-, -, rfl⟩ | ⟨-, before, i, after, -, he⟩ := step_cases h
  · obtain ⟨-, -, hkept⟩ := tick_keeps ht
    exact hkept
  · exact ⟨rfl, rfl, rfl⟩
  · have hkept := exec_keeps_table_and_pins he
    exact hkept

/-- Settles O43: each of the ways a step or an operation can end leaves the three fields alone. -/
theorem tableAndPinsNeverChange : Obligations.TableAndPinsNeverChange :=
  ⟨fun _ _ => step_keeps_table_and_pins, fun _ _ _ => exec_keeps_table_and_pins⟩

end Sys2Proof.Machine

/-! What an operation sends is fixed by the operation and the table, and a run sends it operation by operation. -/

namespace Sys2Proof.Machine

/-- 10_state R21, R30: which way of `exec_idle_cases` an operation ends, and with which calls or answer, the operation
and the table alone decide: it is the same on every free block with that table. -/
theorem exec_idle_cases_of_table (i : Instr) (table : Memory) :
    (∃ calls, ∀ s : State, s.block = .idle → s.charTab = table → exec i s = .next (s.afterSending i calls)) ∨
    (∃ answer, ∀ s : State, s.block = .idle → s.charTab = table → exec i s = .next (s.afterReport i answer)) := by
  cases i with
  | clearDisplay => exact .inl ⟨_, fun _ h _ => (execClearDisplay_idle h).trans (transmit_ir ..)⟩
  | returnHome => exact .inl ⟨_, fun _ h _ => (execReturnHome_idle h).trans (transmit_ir ..)⟩
  | entryModeSet => exact .inl ⟨_, fun _ h _ => (execEntryModeSet_idle _ _ h).trans (transmit_ir ..)⟩
  | displayControl => exact .inl ⟨_, fun _ h _ => (execDisplayControl_idle _ _ _ h).trans (transmit_ir ..)⟩
  | functionSet => exact .inl ⟨_, fun _ h _ => (execFunctionSet_idle _ _ _ h).trans (transmit_ir ..)⟩
  | setDdramAddress address =>
    cases hf : addressField address with
    | none => exact .inr ⟨_, fun _ h _ => execSetDdramAddress_rangeError h hf⟩
    | some field => exact .inl ⟨_, fun _ h _ => (execSetDdramAddress_idle h hf).trans (transmit_ir ..)⟩
  | writeData value =>
    cases hf : dataField value with
    | none => exact .inr ⟨_, fun _ h _ => execWriteData_rangeError h hf⟩
    | some d => exact .inl ⟨_, fun _ h _ => (execWriteData_idle h hf).trans (transmit_dr ..)⟩
  | resolveChar char =>
    cases hr : Memory.read table char.val with
    | none => exact .inr ⟨_, fun _ h ht => execResolveChar_absent h (ht ▸ hr)⟩
    | some code => exact .inr ⟨_, fun _ h ht => execResolveChar_key h (ht ▸ hr)⟩
  | writeText text twoLine =>
    cases twoLine with
    | true => exact .inr ⟨_, fun _ h _ => execWriteText_twoLine text h⟩
    | false =>
      cases hr : resolveAll table text with
      | none => exact .inr ⟨_, fun _ h ht => execWriteText_absent h (ht ▸ hr)⟩
      | some codes => exact .inl ⟨_, fun _ h ht => (execWriteText_resolved h (ht ▸ hr)).trans (transmit_text ..)⟩

/-- 20_memory R51: the T-trace of one operation, empty when it only reports. -/
theorem exec_appends_words_of_table (i : Instr) (table : Memory) :
    ∃ words, ∀ s : State, s.block = .idle → s.charTab = table →
      ∃ t, exec i s = .next t ∧ t.tTrace = s.tTrace ++ words := by
  obtain ⟨calls, hsent⟩ | ⟨answer, hreported⟩ := exec_idle_cases_of_table i table
  · exact ⟨calls.map Call.txn, fun s h ht => ⟨_, hsent s h ht, rfl⟩⟩
  · exact ⟨[], fun s h ht => ⟨_, hreported s h ht, by simp⟩⟩

/-- 00_scope R4: an operation on a free block runs to its end, so it leaves a free block. -/
theorem exec_keeps_idle {i : Instr} {s t : State} (h : s.block = .idle) (he : exec i s = .next t) : t.block = .idle := by
  obtain ⟨job, hb, -⟩ | ⟨-, calls, -, rfl⟩ | ⟨-, answer, -, rfl⟩ := exec_cases he
  · rw [h] at hb; cases hb
  · rfl
  · exact h

theorem execAll_cons_of_next {i : Instr} {s t : State} (ops : List Instr) (h : exec i s = .next t) :
    execAll (i :: ops) s = execAll ops t := by
  simp only [execAll, h]

/-- Each operation leaves a free block with the same table, so what one operation appends there is what it appends
anywhere in the run. -/
theorem execAll_appends_words {table : Memory} {words : Instr → List Txn}
    (hwords : ∀ (i : Instr) (u : State), u.block = .idle → u.charTab = table →
      ∃ v, exec i u = .next v ∧ v.tTrace = u.tTrace ++ words i)
    (ops : List Instr) {s : State} (h : s.block = .idle) (ht : s.charTab = table) :
    ∃ t, execAll ops s = .next t ∧ t.tTrace = s.tTrace ++ ops.flatMap words := by
  induction ops generalizing s with
  | nil => exact ⟨s, rfl, by simp⟩
  | cons i ops ih =>
    obtain ⟨u, hu, htrace⟩ := hwords i s h ht
    obtain ⟨htab, -⟩ := exec_keeps_table_and_pins hu
    obtain ⟨t, hrun, hrest⟩ := ih (exec_keeps_idle h hu) (htab.trans ht)
    exact ⟨t, (execAll_cons_of_next ops hu).trans hrun, by simp [hrest, htrace]⟩

/-- Settles O34: the words of each operation come from the operation and the table, by induction on the list. -/
theorem traceIsConcatenationInOrder : Obligations.TraceIsConcatenationInOrder := by
  intro ops s h
  choose words hwords using fun i => exec_appends_words_of_table i s.charTab
  exact ⟨words, hwords, execAll_appends_words hwords ops h rfl⟩

end Sys2Proof.Machine

/-! The encoding: the operand fields are exact, the decoder reads back every word the encoder forms, and every word
latched is the encoder's. -/

namespace Sys2Proof

/-- An integer that fits in `n` bits without a sign is kept whole. -/
theorem toNat_ofInt_of_inRange (n : Nat) {a : Int} (h0 : 0 ≤ a) (h : a < 2 ^ n) : ((BitVec.ofInt n a).toNat : Int) = a := by
  have hmod : a % (2 ^ n : Nat) = a := Int.emod_eq_of_lt h0 (by simpa using h)
  rw [BitVec.toNat_ofInt, hmod, Int.toNat_of_nonneg h0]

/-- Row set_ddram_address of R63: the leading 1 stands above the field, so the word is `128 + field` (R66). -/
theorem cmdSetDdramAddress_toNat (field : BitVec 7) : (cmdSetDdramAddress field).toNat = 128 + field.toNat := by
  calc (cmdSetDdramAddress field).toNat = 1 <<< 7 ||| field.toNat := BitVec.toNat_append 1#1 field
    _ = 128 + field.toNat := (Nat.shiftLeft_add_eq_or_of_lt field.isLt 1).symm

theorem cmdSetDdramAddress_leadingOne (field : BitVec 7) : (cmdSetDdramAddress field).getLsbD 7 = true :=
  BitVec.getLsbD_append (x := 0b1#1) (y := field)

theorem cmdSetDdramAddress_field (field : BitVec 7) : (cmdSetDdramAddress field).extractLsb' 0 7 = field :=
  BitVec.extractLsb'_append_eq_right

/-- `0x80 OR address` (R66): the low seven bits of 0x80 are 0, so nothing is masked or carried. -/
theorem cmdSetDdramAddress_eq_or (field : BitVec 7) : cmdSetDdramAddress field = 0x80#8 ||| field.setWidth 8 :=
  BitVec.append_def 0b1#1 field

theorem encode_setDdramAddress_inRange {a : Int} (h : 0 ≤ a ∧ a ≤ 127) :
    encode (.setDdramAddress a) = some (busWord false false (cmdSetDdramAddress (BitVec.ofInt 7 a))) := by
  simp [encode, addressField_inRange h]

theorem encode_setDdramAddress_outOfRange {a : Int} (h : a < 0 ∨ 127 < a) : encode (.setDdramAddress a) = none := by
  simp [encode, addressField_outOfRange h]

theorem encode_writeData_inRange {v : Int} (h : 0 ≤ v ∧ v ≤ 255) :
    encode (.writeData v) = some (busWord true false (BitVec.ofInt 8 v)) := by
  simp [encode, dataField_inRange h]

theorem encode_writeData_outOfRange {v : Int} (h : v < 0 ∨ 255 < v) : encode (.writeData v) = none := by
  simp [encode, dataField_outOfRange h]

/-- Every byte is a data byte (R62, R67). -/
theorem encode_writeData_toNat (d : Byte) : encode (.writeData d.toNat) = some (busWord true false d) := by
  have hd : 0 ≤ (d.toNat : Int) ∧ (d.toNat : Int) ≤ 255 := by have := d.isLt; omega
  simp [encode_writeData_inRange hd]

/-- RW = 0 and RS = 1 is a data word, whatever its byte (R71). -/
theorem decode_dataWord (d : Byte) : decode (busWord true false d) = some (.writeData d.toNat) := by
  simp only [decode, decodeNamed, busWord_rw, busWord_rs, busWord_data]
  rfl

theorem decode_addressWord (field : BitVec 7) :
    decode (busWord false false (cmdSetDdramAddress field)) = some (.setDdramAddress field.toNat) := by
  simp only [decode, decodeNamed, busWord_rw, busWord_rs, busWord_data, cmdSetDdramAddress_leadingOne,
    cmdSetDdramAddress_field]
  rfl

/-- No word with RW = 1 decodes (R71). -/
theorem decode_readWrite {w : BusWord} {i : Instr} (h : decode w = some i) : w.getLsbD 8 = false := by
  by_contra hrw
  rw [decode, decodeNamed, if_pos (by simpa using hrw)] at h
  cases h

/-- 30_encoding R72: the decoder reads back every word the encoder forms. The rows of fixed width are finite; an
address and a data byte are read back for every field. -/
theorem decode_of_encode {i : Instr} {w : BusWord} (h : encode i = some w) : decode w = some i := by
  cases i with
  | clearDisplay => cases h; decide
  | returnHome => cases h; decide
  | entryModeSet decrement displayShift => cases h; revert decrement displayShift; decide
  | displayControl displayOn cursorOn blinkOn => cases h; revert displayOn cursorOn blinkOn; decide
  | functionSet dataLength8bit twoLine font5x10 => cases h; revert dataLength8bit twoLine font5x10; decide
  | setDdramAddress a =>
    by_cases ha : 0 ≤ a ∧ a ≤ 127
    · rw [encode_setDdramAddress_inRange ha] at h
      cases h
      rw [decode_addressWord, toNat_ofInt_of_inRange 7 ha.1 (by omega)]
    · rw [encode_setDdramAddress_outOfRange (by omega)] at h
      cases h
  | writeData v =>
    by_cases hv : 0 ≤ v ∧ v ≤ 255
    · rw [encode_writeData_inRange hv] at h
      cases h
      rw [decode_dataWord, toNat_ofInt_of_inRange 8 hv.1 (by omega)]
    · rw [encode_writeData_outOfRange (by omega)] at h
      cases h
  | resolveChar => cases h
  | writeText => cases h

/-- Settles O6: the bit is read off each of the four words. -/
theorem entryModeBitIsInverted : Obligations.EntryModeBitIsInverted := by
  refine ⟨fun decrement displayShift => ⟨_, rfl, ?_⟩, rfl, rfl⟩
  revert decrement displayShift
  decide

end Sys2Proof

namespace Sys2Proof.Machine

/-- Settles O7: out of range the field is absent; in range it is exact, and the leading 1 adds 128. -/
theorem addressFieldIsExactOrRangeError : Obligations.AddressFieldIsExactOrRangeError := by
  refine fun a => ⟨fun hout => ?_, fun hin => ⟨_, encode_setDdramAddress_inRange hin, ?_⟩⟩
  · exact ⟨encode_setDdramAddress_outOfRange hout,
      fun _ h => execSetDdramAddress_rangeError h (addressField_outOfRange hout)⟩
  · have hfield : ((BitVec.ofInt 7 a).toNat : Int) = a := toNat_ofInt_of_inRange 7 hin.1 (by omega)
    have hbyte : ((BitVec.ofInt 8 a).toNat : Int) = a := toNat_ofInt_of_inRange 8 hin.1 (by omega)
    have hwide : (BitVec.ofInt 7 a).setWidth 8 = BitVec.ofInt 8 a := by
      apply BitVec.eq_of_toNat_eq
      rw [BitVec.toNat_setWidth]
      omega
    refine ⟨?_, ?_, cmdSetDdramAddress_leadingOne _, ?_⟩
    · rw [cmdSetDdramAddress_toNat]; omega
    · rw [cmdSetDdramAddress_eq_or, hwide]
    · rw [cmdSetDdramAddress_field, hfield]

/-- Settles O8: out of range the byte is absent; in range it is the value. -/
theorem dataByteIsVerbatimOrRangeError : Obligations.DataByteIsVerbatimOrRangeError := by
  refine fun v => ⟨fun hout => ?_, fun hin => ⟨_, encode_writeData_inRange hin, ?_⟩⟩
  · exact ⟨encode_writeData_outOfRange hout, fun _ h => execWriteData_rangeError h (dataField_outOfRange hout)⟩
  · exact toNat_ofInt_of_inRange 8 hin.1 (by omega)

/-- The T-trace entry has the word of an operation (30_encoding R62, R63). -/
def Txn.encoded (x : Txn) : Prop := ∃ op, encode op = some x.word

theorem drCall_encoded (d : Byte) : (drCall d).txn.encoded := ⟨.writeData d.toNat, encode_writeData_toNat d⟩

/-- 42_data_and_text R132: the five fixed words of a write_text are those of the operations it stands for. -/
theorem textPreamble_encoded : ∀ c ∈ textPreamble, c.txn.encoded := by
  simp only [textPreamble, List.forall_mem_cons]
  exact ⟨⟨.clearDisplay, rfl⟩, ⟨.setDdramAddress 0, rfl⟩,
    ⟨.functionSet Config.fsDefault.1 false Config.fsDefault.2.2, rfl⟩, ⟨displayControlDefault true, rfl⟩,
    ⟨entryModeSetDefault, rfl⟩, nofun⟩

/-- 30_encoding R60: an operation with a bus word sends exactly that word. -/
theorem exec_of_encode {i : Instr} {w : BusWord} {s : State} (h : s.block = .idle) (he : encode i = some w) :
    ∃ c : Call, exec i s = .next (s.afterSending i [c]) ∧ c.txn.word = w := by
  cases i with
  | clearDisplay => cases he; exact ⟨_, (execClearDisplay_idle h).trans (transmit_ir ..), rfl⟩
  | returnHome => cases he; exact ⟨_, (execReturnHome_idle h).trans (transmit_ir ..), rfl⟩
  | entryModeSet => cases he; exact ⟨_, (execEntryModeSet_idle _ _ h).trans (transmit_ir ..), rfl⟩
  | displayControl => cases he; exact ⟨_, (execDisplayControl_idle _ _ _ h).trans (transmit_ir ..), rfl⟩
  | functionSet => cases he; exact ⟨_, (execFunctionSet_idle _ _ _ h).trans (transmit_ir ..), rfl⟩
  | setDdramAddress address =>
    obtain ⟨field, hf, rfl⟩ := Option.map_eq_some_iff.1 he
    exact ⟨_, (execSetDdramAddress_idle h hf).trans (transmit_ir ..), rfl⟩
  | writeData value =>
    obtain ⟨d, hf, rfl⟩ := Option.map_eq_some_iff.1 he
    exact ⟨_, (execWriteData_idle h hf).trans (transmit_dr ..), rfl⟩
  | resolveChar => cases he
  | writeText => cases he

/-- 30_encoding R60: an operation without a bus word of its own only reports, unless it is a write_text whose text
resolves. -/
theorem exec_of_encode_none {i : Instr} {s : State} (h : s.block = .idle) (he : encode i = none) :
    (∃ answer, exec i s = .next (s.afterReport i answer)) ∨
    (∃ codes : List Byte, exec i s = .next (s.afterSending i (textPreamble ++ codes.map drCall))) := by
  cases i with
  | setDdramAddress address => exact .inl ⟨_, execSetDdramAddress_rangeError h (Option.map_eq_none_iff.1 he)⟩
  | writeData value => exact .inl ⟨_, execWriteData_rangeError h (Option.map_eq_none_iff.1 he)⟩
  | resolveChar char =>
    cases hr : Memory.read s.charTab char.val with
    | none => exact .inl ⟨_, execResolveChar_absent h hr⟩
    | some code => exact .inl ⟨_, execResolveChar_key h hr⟩
  | writeText text twoLine =>
    cases twoLine with
    | true => exact .inl ⟨_, execWriteText_twoLine text h⟩
    | false =>
      cases hr : resolveAll s.charTab text with
      | none => exact .inl ⟨_, execWriteText_absent h hr⟩
      | some codes => exact .inr ⟨codes, (execWriteText_resolved h hr).trans (transmit_text ..)⟩
  | _ => cases he

/-- 30_encoding R60, R63: every call of an operation on a free block forms a word of the encoder, its own or those a
write_text stands for. -/
theorem exec_idle_sends_encoded {s : State} (i : Instr) (h : s.block = .idle) :
    (∃ calls, (∀ c ∈ calls, c.txn.encoded) ∧ exec i s = .next (s.afterSending i calls)) ∨
    (∃ answer, exec i s = .next (s.afterReport i answer)) := by
  cases hw : encode i with
  | some w =>
    obtain ⟨c, hs, rfl⟩ := exec_of_encode h hw
    exact .inl ⟨[c], List.forall_mem_singleton.2 ⟨i, hw⟩, hs⟩
  | none =>
    obtain hr | ⟨codes, hs⟩ := exec_of_encode_none h hw
    · exact .inr hr
    · refine .inl ⟨_, List.forall_mem_append.2 ⟨textPreamble_encoded, ?_⟩, hs⟩
      exact List.forall_mem_map.2 fun d _ => drCall_encoded d

/-- 30_encoding R62: a word of the encoder is of one of the two classes, and RS tells which. -/
theorem Txn.encoded.class_of_rs {x : Txn} (h : x.encoded) :
    x.rw = false ∧
      (x.rs = false → ∃ op, decode x.word = some op ∧ encode op = some (busWord false false x.d)) ∧
      (x.rs = true → decode x.word = some (.writeData x.d.toNat)) := by
  obtain ⟨op, he⟩ := h
  obtain ⟨rs, rw, d⟩ := x
  have hrw : rw = false := (busWord_rw rs rw d).symm.trans (decode_readWrite (decode_of_encode he))
  subst hrw
  refine ⟨rfl, ?_, ?_⟩
  · rintro rfl
    exact ⟨op, decode_of_encode he, he⟩
  · rintro rfl
    exact decode_dataWord d

/-- Settles O31: the words an operation appends are the encoder's. -/
theorem latchedWordsAreOfTwoClasses : Obligations.LatchedWordsAreOfTwoClasses := by
  refine ⟨fun i s t h he words hwords x hx => ?_, encode_writeData_toNat⟩
  obtain ⟨calls, hcalls, hs⟩ | ⟨answer, hr⟩ := exec_idle_sends_encoded i h
  · cases he.symm.trans hs
    obtain rfl : calls.map Call.txn = words := List.append_cancel_left hwords
    exact (List.forall_mem_map.2 hcalls x hx).class_of_rs
  · cases he.symm.trans hr
    obtain rfl : words = [] := by simpa using hwords
    cases hx

end Sys2Proof.Machine

/-! The instruction commands: each row of R63 is the sum that its operation's pseudocode writes (41_instruction_commands),
and on a free block the operation sends that row alone. -/

namespace Sys2Proof

/-- 41_instruction_commands R112: the two operand bits stand at 2 and 1, the first of them inverted. -/
theorem cmdEntryModeSet_eq_ofNat (decrement displayShift : Bool) :
    cmdEntryModeSet decrement displayShift =
      BitVec.ofNat 8 (0b00000100 + 2 * (!decrement).toNat + displayShift.toNat) := by
  revert decrement displayShift
  decide

/-- 41_instruction_commands R113: the three operand bits stand at 4, 2 and 1. -/
theorem cmdDisplayControl_eq_ofNat (displayOn cursorOn blinkOn : Bool) :
    cmdDisplayControl displayOn cursorOn blinkOn =
      BitVec.ofNat 8 (0b00001000 + 4 * displayOn.toNat + 2 * cursorOn.toNat + blinkOn.toNat) := by
  revert displayOn cursorOn blinkOn
  decide

/-- 41_instruction_commands R114: the three operand bits stand at 16, 8 and 4, and nothing at 2 and 1 (C7). -/
theorem cmdFunctionSet_eq_ofNat (dataLength8bit twoLine font5x10 : Bool) :
    cmdFunctionSet dataLength8bit twoLine font5x10 =
      BitVec.ofNat 8 (0b00100000 + 16 * dataLength8bit.toNat + 8 * twoLine.toNat + 4 * font5x10.toNat) := by
  revert dataLength8bit twoLine font5x10
  decide

/-- 41_instruction_commands R115: in range neither the seven-bit field nor the byte `128 + address` loses anything. -/
theorem cmdSetDdramAddress_eq_ofInt {a : Int} (h : 0 ≤ a ∧ a ≤ 127) :
    cmdSetDdramAddress (BitVec.ofInt 7 a) = BitVec.ofInt 8 (0b10000000 + a) := by
  have hfield : ((BitVec.ofInt 7 a).toNat : Int) = a := toNat_ofInt_of_inRange 7 h.1 (by omega)
  have hbyte : ((BitVec.ofInt 8 (0b10000000 + a)).toNat : Int) = 0b10000000 + a :=
    toNat_ofInt_of_inRange 8 (by omega) (by omega)
  apply BitVec.eq_of_toNat_eq
  rw [cmdSetDdramAddress_toNat]
  omega

end Sys2Proof

namespace Sys2Proof.Machine

/-- Settles O15: the entry-mode word is the sum of R112, and it is the one call made. -/
theorem entryModeSetSendsItsWord : Obligations.EntryModeSetSendsItsWord := by
  intro decrement displayShift s h
  rw [← cmdEntryModeSet_eq_ofNat]
  exact (execEntryModeSet_idle decrement displayShift h).trans (transmit_ir ..)

/-- Settles O16: the display-control word is the sum of R113, and it is the one call made. -/
theorem displayControlSendsItsWord : Obligations.DisplayControlSendsItsWord := by
  intro displayOn cursorOn blinkOn s h
  rw [← cmdDisplayControl_eq_ofNat]
  exact (execDisplayControl_idle displayOn cursorOn blinkOn h).trans (transmit_ir ..)

/-- Settles O17: the function-set word is the sum of R114, and it is the one call made, four-bit or two-line too (R117). -/
theorem functionSetSendsItsWord : Obligations.FunctionSetSendsItsWord := by
  intro dataLength8bit twoLine font5x10 s h
  rw [← cmdFunctionSet_eq_ofNat]
  exact (execFunctionSet_idle dataLength8bit twoLine font5x10 h).trans (transmit_ir ..)

/-- Settles O18: in range the field exists and its row is `128 + address`; out of range there is no field to send. -/
theorem setDdramAddressSendsOrFails : Obligations.SetDdramAddressSendsOrFails := by
  refine fun a s h => ⟨fun hin => ?_, fun hout => ?_⟩
  · rw [← cmdSetDdramAddress_eq_ofInt hin]
    exact (execSetDdramAddress_idle h (addressField_inRange hin)).trans (transmit_ir ..)
  · exact execSetDdramAddress_rangeError h (addressField_outOfRange hout)

/-- Settles O13: the fixed row is the one call made. -/
theorem clearDisplaySendsItsWord : Obligations.ClearDisplaySendsItsWord :=
  fun _ h => (execClearDisplay_idle h).trans (transmit_ir ..)

/-- Settles O14: the fixed row is the one call made. -/
theorem returnHomeSendsItsWord : Obligations.ReturnHomeSendsItsWord :=
  fun _ h => (execReturnHome_idle h).trans (transmit_ir ..)

end Sys2Proof.Machine

/-! The data write and the character resolution (42_data_and_text): both are decided by one check made before any line
changes. -/

namespace Sys2Proof.Machine

/-- Settles O19: in range the value is the byte of the one call made; out of range there is no byte to send. -/
theorem writeDataSendsOrFails : Obligations.WriteDataSendsOrFails := by
  refine fun v s h => ⟨fun hin => ?_, fun hout => ?_⟩
  · exact (execWriteData_idle h (dataField_inRange hin)).trans (transmit_dr ..)
  · exact execWriteData_rangeError h (dataField_outOfRange hout)

/-- Settles O20: the lookup in the table decides the report, and either report is all that is written. -/
theorem resolveCharAnswersOrFails : Obligations.ResolveCharAnswersOrFails := by
  refine fun c s h => ⟨fun code hkey => ?_, fun habsent => ?_⟩
  · exact execResolveChar_key h hkey
  · exact execResolveChar_absent h habsent

end Sys2Proof.Machine

/-! Exceptions (60_exceptions): the report alone tells how an operation ended, and with an error it ended by reporting
only. -/

namespace Sys2Proof.Machine

/-- 60_exceptions R155, R161: sending reports ok, so an operation on a free block whose report is another answer sent
nothing. -/
theorem exec_eq_afterReport_of_ne_ok {i : Instr} {s t : State} {answer : Answer} (h : s.block = .idle)
    (he : exec i s = .next t) (hreport : t.reports = s.reports ++ [{ op := i, answer := answer }])
    (hne : answer ≠ .ok) : t = s.afterReport i answer := by
  obtain ⟨job, hb, -⟩ | ⟨-, calls, -, rfl⟩ | ⟨-, given, -, rfl⟩ := exec_cases he
  · rw [h] at hb; cases hb
  · cases List.append_cancel_left hreport
    exact absurd rfl hne
  · cases List.append_cancel_left hreport
    rfl

/-- Settles O29: an error is no ok, and appending a report leaves the lines, both traces and the waits alone. -/
theorem failedOperationWritesNothing : Obligations.FailedOperationWritesNothing := by
  intro i s t err h he hreport
  obtain rfl : t = s.afterReport i (.error err) := exec_eq_afterReport_of_ne_ok h he hreport nofun
  exact ⟨rfl, State.afterReport_lines .., State.lTrace_eq_of_events (State.afterReport_events ..),
    State.afterReport_tTrace .., State.afterReport_events ..⟩

end Sys2Proof.Machine

/-! The encoder and the decoder are inverse to each other, and the image they share (30_encoding sections 4 and 5). -/

namespace Sys2Proof

/-- 30_encoding R60: a single-word operation whose operand checks pass has a bus word. -/
theorem encode_isSome_of_wellFormed {i : Instr} (hs : i.singleWord = true) (hw : i.wellFormed = true) :
    ∃ w, encode i = some w := by
  cases i with
  | setDdramAddress a => exact ⟨_, encode_setDdramAddress_inRange (of_decide_eq_true hw)⟩
  | writeData v => exact ⟨_, encode_writeData_inRange (of_decide_eq_true hw)⟩
  | resolveChar => cases hs
  | writeText => cases hs
  | _ => exact ⟨_, rfl⟩

/-- Settles O9: the operation has a word, and the decoder reads back every word the encoder forms. -/
theorem decodeInvertsEncode : Obligations.DecodeInvertsEncode := by
  intro i hs hw
  obtain ⟨w, he⟩ := encode_isSome_of_wellFormed hs hw
  exact ⟨w, he, decode_of_encode he⟩

/-- Settles O5: the words that stand for an operation are those it encodes to; the others are in no row. -/
theorem decodeReadsWrittenOutWords : Obligations.DecodeReadsWrittenOutWords :=
  ⟨decode_of_encode rfl, decode_of_encode rfl, decode_of_encode rfl, decode_of_encode rfl, decode_of_encode rfl,
    decode_of_encode rfl, decode_of_encode rfl, decode_of_encode rfl, by decide⟩

/-- 30_encoding R61: a bus word is put together again from its three parts. -/
theorem busWord_of_parts (w : BusWord) : busWord (w.getLsbD 9) (w.getLsbD 8) (w.extractLsb' 0 8) = w := by
  revert w; decide

theorem cmdSetDdramAddress_of_field {c : Byte} (h : c.getLsbD 7 = true) :
    cmdSetDdramAddress (c.extractLsb' 0 7) = c := by
  revert c; decide

/-- Row function_set of R63: the leading bits and the two low bits leave the three operands. -/
theorem cmdFunctionSet_of_bits {c : Byte} (hlead : c.extractLsb' 5 3 = 0b001#3) (hlow : c.extractLsb' 0 2 = 0b00#2) :
    cmdFunctionSet (c.getLsbD 4) (c.getLsbD 3) (c.getLsbD 2) = c := by
  revert c; decide

theorem cmdDisplayControl_of_bits {c : Byte} (hlead : c.extractLsb' 3 5 = 0b00001#5) :
    cmdDisplayControl (c.getLsbD 2) (c.getLsbD 1) (c.getLsbD 0) = c := by
  revert c; decide

theorem cmdEntryModeSet_of_bits {c : Byte} (hlead : c.extractLsb' 2 6 = 0b000001#6) :
    cmdEntryModeSet (!c.getLsbD 1) (c.getLsbD 0) = c := by
  revert c; decide

/-- Every seven-bit field is an address in range (R66). -/
theorem encode_setDdramAddress_toNat (field : BitVec 7) :
    encode (.setDdramAddress field.toNat) = some (busWord false false (cmdSetDdramAddress field)) := by
  have hin : 0 ≤ (field.toNat : Int) ∧ (field.toNat : Int) ≤ 127 := by have := field.isLt; omega
  simp [encode_setDdramAddress_inRange hin]

/-- 30_encoding R71, R72: what the decoder reads in a row encodes to the word it was read from. -/
theorem encode_of_decode {w : BusWord} {i : Instr} (h : decode w = some i) : encode i = some w := by
  rw [← busWord_of_parts w, decode_readWrite h]
  rw [decode, decodeNamed, if_neg (ne_true_of_eq_false (decode_readWrite h))] at h
  generalize w.extractLsb' 0 8 = c at h ⊢
  split_ifs at h with hrs haddress hdb6 hfunction hlow hdb4 hdisplay hentry hhome hclear <;> cases h
  case pos => rw [hrs]; exact encode_writeData_toNat c
  all_goals rw [Bool.eq_false_of_not_eq_true hrs]
  · rw [encode_setDdramAddress_toNat, cmdSetDdramAddress_of_field haddress]
  · exact congrArg (some <| busWord false false ·) (cmdFunctionSet_of_bits hfunction hlow)
  · exact congrArg (some <| busWord false false ·) (cmdDisplayControl_of_bits hdisplay)
  · exact congrArg (some <| busWord false false ·) (cmdEntryModeSet_of_bits hentry)
  · rw [hhome]; rfl
  · rw [hclear]; rfl

/-- 30_encoding R60: only a single-word operation whose operand checks pass has a bus word. -/
theorem wellFormed_of_encode {i : Instr} {w : BusWord} (h : encode i = some w) :
    i.singleWord = true ∧ i.wellFormed = true := by
  cases i with
  | setDdramAddress a =>
    refine ⟨rfl, decide_eq_true ?_⟩
    by_contra hout
    rw [encode_setDdramAddress_outOfRange (by omega)] at h
    cases h
  | writeData v =>
    refine ⟨rfl, decide_eq_true ?_⟩
    by_contra hout
    rw [encode_writeData_outOfRange (by omega)] at h
    cases h
  | resolveChar => cases h
  | writeText => cases h
  | _ => exact ⟨rfl, rfl⟩

/-- Settles O10: the operation read from a word encodes to it, and what encodes is well formed. -/
theorem encodeInvertsDecode : Obligations.EncodeInvertsDecode :=
  fun _ _ h => ⟨encode_of_decode h, wellFormed_of_encode (encode_of_decode h)⟩

/-- A word of the image (R69), by its number. -/
def inImage (n : Nat) : Bool := (decode (BitVec.ofNat 10 n)).isSome

/-- 30_encoding R61: RS and RW stand above the byte. -/
theorem busWord_toNat (rs rw : Bool) (d : Byte) :
    (busWord rs rw d).toNat = 0x200 * rs.toNat + 0x100 * rw.toNat + d.toNat := by
  revert rs rw d; decide

/-- A number summed of three parts is that of their bus word. -/
theorem ofNat_eq_busWord {rs rw : Bool} {n : Nat} (d : Byte)
    (h : n = 0x200 * rs.toNat + 0x100 * rw.toNat + d.toNat) : BitVec.ofNat 10 n = busWord rs rw d := by
  rw [h, ← busWord_toNat, BitVec.ofNat_toNat, BitVec.setWidth_eq]

theorem inImage_address {k : Nat} (h : k < 0x80) : inImage (0x080 + k) = true := by
  have hk : (BitVec.ofNat 7 k).toNat = k := Nat.mod_eq_of_lt h
  rw [inImage, ofNat_eq_busWord (rs := false) (rw := false) (cmdSetDdramAddress (BitVec.ofNat 7 k))
    (by rw [cmdSetDdramAddress_toNat, hk]; simp), decode_addressWord]
  rfl

theorem inImage_data {k : Nat} (h : k < 0x100) : inImage (0x200 + k) = true := by
  have hk : (BitVec.ofNat 8 k).toNat = k := Nat.mod_eq_of_lt h
  rw [inImage, ofNat_eq_busWord (rs := true) (rw := false) (BitVec.ofNat 8 k) (by rw [hk]; simp), decode_dataWord]
  rfl

/-- A word with RW = 1 is not in the image, whatever its RS. -/
theorem not_inImage_readWrite (rs : Bool) {n : Nat} (d : Byte) (h : n = 0x200 * rs.toNat + 0x100 + d.toNat) :
    inImage n = false := by
  rw [inImage, ofNat_eq_busWord (rs := rs) (rw := true) d h, decode, decodeNamed, if_pos (busWord_rw ..)]
  rfl

/-- The words of the image below 0x080 (R69). -/
def imageBelowAddresses : List Nat :=
  [0x01, 0x02, 0x04, 0x05, 0x06, 0x07, 0x08, 0x09, 0x0A, 0x0B, 0x0C, 0x0D, 0x0E, 0x0F,
   0x20, 0x24, 0x28, 0x2C, 0x30, 0x34, 0x38, 0x3C]

/-- The words of the image from 0x080 on (R69): all address words and all data words. -/
def imageFromAddresses : List Nat :=
  (List.range 0x80).map (0x080 + ·) ++ (List.range 0x100).map (0x200 + ·)

theorem range_filter_inImage : (List.range 1024).filter inImage = imageBelowAddresses ++ imageFromAddresses := by
  have hsplit : List.range (0x80 + 0x80 + 0x100 + 0x100 + 0x100) =
      List.range 0x80 ++ (List.range 0x80).map (0x080 + ·) ++ (List.range 0x100).map (0x100 + ·) ++
        (List.range 0x100).map (0x200 + ·) ++ (List.range 0x100).map (0x300 + ·) := by
    rw [List.range_add, List.range_add, List.range_add, List.range_add]
  have hbelow : (List.range 0x80).filter inImage = imageBelowAddresses := by decide
  have hkept {m n : Nat} (h : ∀ k < n, inImage (m + k) = true) :
      ((List.range n).map (m + ·)).filter inImage = (List.range n).map (m + ·) := by
    simpa [List.filter_eq_self] using h
  have hdropped {m n : Nat} (h : ∀ k < n, inImage (m + k) = false) :
      ((List.range n).map (m + ·)).filter inImage = [] := by
    simpa [List.filter_eq_nil_iff] using h
  have hbyte {k : Nat} (h : k < 0x100) : (BitVec.ofNat 8 k).toNat = k := Nat.mod_eq_of_lt h
  have hrs0 : ∀ k < 0x100, inImage (0x100 + k) = false := fun k h =>
    not_inImage_readWrite false (BitVec.ofNat 8 k) (by rw [hbyte h]; simp)
  have hrs1 : ∀ k < 0x100, inImage (0x300 + k) = false := fun k h =>
    not_inImage_readWrite true (BitVec.ofNat 8 k) (by rw [hbyte h]; simp)
  rw [hsplit, List.filter_append, List.filter_append, List.filter_append, List.filter_append, hbelow,
    hkept fun _ => inImage_address, hdropped hrs0, hkept fun _ => inImage_data, hdropped hrs1]
  simp [imageFromAddresses]

/-- Settles O11: of the five parts of the 1024 words, the first holds the 22 words listed, the address and the data
words are all kept, and the two parts with RW = 1 are dropped. -/
theorem imageHas406Words : Obligations.ImageHas406Words := by
  have himage : (List.range 1024).filter (fun n => (decode (BitVec.ofNat 10 n)).isSome) =
      imageBelowAddresses ++ imageFromAddresses := range_filter_inImage
  have hbelow : ∀ n ∈ imageBelowAddresses, n < 0x80 := by decide
  have hfrom : ∀ n ∈ imageFromAddresses, 0x80 ≤ n := by
    simp only [imageFromAddresses, List.mem_append, List.mem_map]
    rintro n (⟨k, -, rfl⟩ | ⟨k, -, rfl⟩) <;> omega
  rw [Obligations.ImageHas406Words, himage, List.filter_append, List.filter_append]
  refine ⟨by simp [imageBelowAddresses, imageFromAddresses], ?_, ?_⟩
  · rw [List.filter_eq_self.2 (by simpa using hbelow), List.filter_eq_nil_iff.2 (by simpa using hfrom)]
    rfl
  · rw [List.filter_eq_nil_iff.2 (by simpa using hbelow), List.filter_eq_self.2 (by simpa using hfrom)]
    rfl

/-- Settles O12: the defaults are the constants of R118, and their words are formed of them. -/
theorem defaultOperandsEncode : Obligations.DefaultOperandsEncode := ⟨rfl, rfl, rfl, fun _ => rfl⟩

end Sys2Proof

/-! The step, an equation for each row of the sequencer's table (40_bus_sequencer R97) and one for each way a free block
can step. -/

namespace Sys2Proof.Machine

theorem step_busy {s : State} {job : Job} (h : s.block = .busy job) : step s = tick s := by
  simp only [step, h]

theorem step_absent {s : State} (h : s.block = .absent) : step s = .refused .notConstructed := by
  simp only [step, h]

theorem tick_noCall {s : State} {op : Instr} (h : s.block = .busy ⟨op, [], .idle⟩) :
    tick s = .next (endJob ⟨op, [], .idle⟩ s) := by
  simp only [tick, h]

theorem tick_write {s : State} {op : Instr} {c : Call} {todo : List Call} (h : s.block = .busy ⟨op, c :: todo, .idle⟩)
    (hrw : c.rw = false) :
    tick s = .next ((s.drive (drivenLines c.rs false false c.d)).withBlock (.busy ⟨op, todo, .setup c⟩)) := by
  simp [tick, h, startCall, hrw]

theorem tick_read {s : State} {op : Instr} {c : Call} {todo : List Call} (h : s.block = .busy ⟨op, c :: todo, .idle⟩)
    (hrw : c.rw = true) : tick s = .refused .readTransaction := by
  simp [tick, h, startCall, hrw]

theorem tick_setup {s : State} {op : Instr} {c : Call} {todo : List Call} (h : s.block = .busy ⟨op, todo, .setup c⟩) :
    tick s = .next (raiseEnable ⟨op, todo, .setup c⟩ c s) := by
  simp only [tick, h]

theorem tick_eHigh {s : State} {op : Instr} {c : Call} {todo : List Call} (h : s.block = .busy ⟨op, todo, .eHigh c⟩) :
    tick s = .next (lowerEnable ⟨op, todo, .eHigh c⟩ c s) := by
  simp only [tick, h]

theorem tick_eLow {s : State} {op : Instr} {c : Call} {todo : List Call} (h : s.block = .busy ⟨op, todo, .eLow c⟩) :
    tick s = .next (startWait ⟨op, todo, .eLow c⟩ c s) := by
  simp only [tick, h]

theorem tick_wait {s : State} {op : Instr} {c : Call} {todo : List Call} (h : s.block = .busy ⟨op, todo, .wait c⟩) :
    tick s = .next (endCall ⟨op, todo, .wait c⟩ c s) := by
  simp only [tick, h]

/-- Settles O38: the rows of the table, one equation each. -/
theorem sequencerMovesAsTheTable : Obligations.SequencerMovesAsTheTable := by
  intro s op c todo
  refine ⟨fun h hrw => ?_, fun h => ?_, fun h => ?_, fun h => ?_, fun h => ?_, fun h => ?_⟩ <;> rw [step_busy h]
  · exact tick_write h hrw
  · simp [tick_setup h, raiseEnable, State.pause, State.driveE, State.drive, State.withBlock]
  · simp [tick_eHigh h, lowerEnable, State.pause, State.driveE, State.drive, State.latch, State.withBlock]
  · exact tick_eLow h
  · exact tick_wait h
  · exact tick_noCall h

/-- Settles O39: the row of a call in IDLE needs RW false. -/
theorem readTransactionIsRefused : Obligations.ReadTransactionIsRefused :=
  fun _ _ _ _ h hrw => (step_busy h).trans (tick_read h hrw)

/-- Settles O4: neither a step nor an operation has a block to act on. -/
theorem unconstructedBlockRefuses : Obligations.UnconstructedBlockRefuses :=
  fun _ h => ⟨step_absent h, fun i => exec_absent i h⟩

/-- 20_memory R53: a free block does nothing or runs one of the requests held. -/
theorem step_idle_cases {s : State} (h : s.block = .idle) :
    (s.waiting = [] ∧ step s = .next s) ∨
    (∃ before i after, s.waiting = before ++ i :: after ∧
      step s = exec i { s with waiting := before ++ after, admissions := s.admissions + 1 }) := by
  obtain ⟨hw, ha⟩ | ⟨before, i, after, hw, ha⟩ := s.admission_cases
  · exact .inl ⟨hw, by simp only [step, h, ha]⟩
  · exact .inr ⟨before, i, after, hw, by simp only [step, h, ha]⟩

/-- Settles O36: the two cases of `step_idle_cases` are told apart by the list of held requests. -/
theorem freeBlockAdmitsOneHeldCaller : Obligations.FreeBlockAdmitsOneHeldCaller := by
  intro s h
  obtain ⟨hw, hs⟩ | ⟨before, i, after, hw, hs⟩ := step_idle_cases h
  · exact ⟨fun _ => hs, fun hne => absurd hw hne⟩
  · exact ⟨fun hnil => by simp [hw] at hnil, fun _ => ⟨before, i, after, hw, hs⟩⟩

/-- Settles O37: an operation is held on a busy block, and a step there is a transition, which leaves the held requests
alone. -/
theorem busyBlockHoldsCallers : Obligations.BusyBlockHoldsCallers := by
  refine fun s job hb => ⟨fun i => exec_busy i hb, fun t ht => ?_⟩
  obtain ⟨hwaiting, hadmissions, -⟩ := tick_keeps ((step_busy hb).symm.trans ht)
  exact ⟨hwaiting, hadmissions⟩

theorem step_offer (op : Instr) (s : State) :
    step (s.offer op) = exec op { s with block := .idle, waiting := [], admissions := s.admissions + 1 } := rfl

theorem State.withFetchWord_of_decode {nbits w : Nat} {i : Instr} (s : State) (h : decodeTableWord nbits w = some i) :
    s.withFetchWord nbits w = s.offer i := by
  simp only [State.withFetchWord, h]

/-- Settles O35: the operation of the word is the one request offered, so it is the one admitted. -/
theorem stepRunsTheDecodedOperation : Obligations.StepRunsTheDecodedOperation := by
  intro s nbits w i h
  rw [State.withFetchWord_of_decode s h, step_offer]

end Sys2Proof.Machine

/-! What every step keeps: the constructed block with its write calls, the histories, the invariant. -/

namespace Sys2Proof.Machine

theorem State.calls_of_idle {s : State} (h : s.block = .idle) : s.calls = [] := by
  simp only [State.calls, h]

theorem State.calls_of_busy {s : State} {job : Job} (h : s.block = .busy job) :
    s.calls = job.phase.calls ++ job.todo := by
  simp only [State.calls, h]

@[simp] theorem State.withBlock_calls (job : Job) (s : State) :
    (s.withBlock (.busy job)).calls = job.phase.calls ++ job.todo := rfl

@[simp] theorem State.withBlock_phase (job : Job) (s : State) : (s.withBlock (.busy job)).phase = job.phase := rfl

@[simp] theorem State.driveE_lTrace (e : Bool) (s : State) :
    (s.driveE e).lTrace = s.lTrace ++ [{ s.lines with e := e }] := State.drive_lTrace _ _

/-- A transition leaves a block and takes no call in: those left after it were there before. -/
theorem tick_calls_subset {s t : State} {job : Job} (hb : s.block = .busy job) (h : tick s = .next t) :
    t.block ≠ .absent ∧ ∀ c ∈ t.calls, c ∈ s.calls := by
  rw [State.calls_of_busy hb]
  obtain ⟨-, -, rfl⟩ | ⟨c, rest, hp, htodo, -, rfl⟩ | ⟨c, hp, rfl⟩ | ⟨c, hp, rfl⟩ | ⟨c, hp, rfl⟩ | ⟨c, hp, rfl⟩ :=
    tick_busy_cases hb h
  · exact ⟨nofun, nofun⟩
  · exact ⟨nofun, by simp [hp, htodo, Phase.calls]⟩
  · exact ⟨nofun, by simp [hp, raiseEnable, Phase.calls]⟩
  · exact ⟨nofun, by simp [hp, lowerEnable, Phase.calls]⟩
  · exact ⟨nofun, by simp [hp, startWait, Phase.calls]⟩
  · exact ⟨nofun, by simp +contextual [hp, endCall, Phase.calls]⟩

/-- With write calls only, every row of the table has a next state. -/
theorem exists_tick {s : State} {job : Job} (hb : s.block = .busy job) (hrw : ∀ c ∈ s.calls, c.rw = false) :
    ∃ t, tick s = .next t := by
  obtain ⟨op, todo, phase⟩ := job
  cases phase with
  | idle =>
    cases todo with
    | nil => exact ⟨_, tick_noCall hb⟩
    | cons c todo => exact ⟨_, tick_write hb (hrw c (by simp [State.calls_of_busy hb, Phase.calls]))⟩
  | setup c => exact ⟨_, tick_setup hb⟩
  | eHigh c => exact ⟨_, tick_eHigh hb⟩
  | eLow c => exact ⟨_, tick_eLow hb⟩
  | wait c => exact ⟨_, tick_wait hb⟩

/-- An operation on a free block always answers a next state. -/
theorem exists_exec_of_idle (i : Instr) {s : State} (h : s.block = .idle) :
    ∃ t, exec i s = .next t ∧ t.block = .idle := by
  obtain ⟨calls, -, he⟩ | ⟨answer, -, he⟩ := exec_idle_cases i h <;> exact ⟨_, he, exec_keeps_idle h he⟩

/-- Settles O42: a busy block makes a transition, which takes no new call in; a free one stays free. -/
theorem constructedBlockNeverStops : Obligations.ConstructedBlockNeverStops := by
  intro s hconstructed hrw
  cases hb : s.block with
  | absent => exact absurd hb hconstructed
  | idle =>
    obtain ⟨t, ht, hidle⟩ : ∃ t, step s = .next t ∧ t.block = .idle := by
      obtain ⟨-, hs⟩ | ⟨before, i, after, -, hs⟩ := step_idle_cases hb
      · exact ⟨s, hs, hb⟩
      · rw [hs]; exact exists_exec_of_idle i hb
    exact ⟨t, ht, by simp [hidle], by simp [State.calls_of_idle hidle]⟩
  | busy job =>
    obtain ⟨t, ht⟩ := exists_tick hb hrw
    obtain ⟨hblock, hsub⟩ := tick_calls_subset hb ht
    exact ⟨t, (step_busy hb).trans ht, hblock, fun c hc => hrw c (hsub c hc)⟩

/-- The histories of `t` are those of `s`, extended at the end (20_memory R49). -/
def State.Extends (t s : State) : Prop :=
  s.events <+: t.events ∧ s.tTrace <+: t.tTrace ∧ s.reports <+: t.reports

theorem tick_extends {s t : State} {job : Job} (hb : s.block = .busy job) (h : tick s = .next t) : t.Extends s := by
  unfold State.Extends
  obtain ⟨-, -, rfl⟩ | ⟨c, rest, -, -, -, rfl⟩ | ⟨c, -, rfl⟩ | ⟨c, -, rfl⟩ | ⟨c, -, rfl⟩ | ⟨c, -, rfl⟩ :=
    tick_busy_cases hb h
  · simp [endJob]
  · simp
  · simp [raiseEnable]
  · simp [lowerEnable]
  · simp [startWait]
  · simp [endCall]

theorem exec_extends {i : Instr} {s t : State} (h : exec i s = .next t) : t.Extends s := by
  unfold State.Extends
  obtain ⟨job, -, rfl⟩ | ⟨-, calls, -, rfl⟩ | ⟨-, answer, -, rfl⟩ := exec_cases h <;> simp

theorem step_extends {s t : State} (h : step s = .next t) : t.Extends s := by
  obtain ⟨job, hb, ht⟩ | ⟨-, -, rfl⟩ | ⟨-, before, i, after, -, he⟩ := step_cases h
  · exact tick_extends hb ht
  · exact ⟨List.prefix_rfl, List.prefix_rfl, List.prefix_rfl⟩
  · have hgrown := exec_extends he
    exact hgrown

/-- Settles O44: no way a step can go takes an entry back, and the L-trace is read off the events. -/
theorem tracesOnlyGrow : Obligations.TracesOnlyGrow := by
  intro s t h
  obtain ⟨hevents, htTrace, hreports⟩ := step_extends h
  have hlTrace : s.lTrace <+: t.lTrace := hevents.filterMap _
  exact ⟨List.prefix_iff_exists_eq_append.1 hevents, List.prefix_iff_exists_eq_append.1 hlTrace,
    List.prefix_iff_exists_eq_append.1 htTrace, List.prefix_iff_exists_eq_append.1 hreports⟩

/-- The two clauses of the invariant that tie the lines to the traces (40_bus_sequencer R100, 10_state R22). -/
structure State.Traced (s : State) : Prop where
  trace : s.lTrace = s.tTrace.flatMap Txn.lines ++ s.phase.unlatched
  held : s.lines = s.lTrace.getLastD Lines.unwritten

/-- In a phase whose transaction has driven lines and latched no word yet, the lines hold what it drove last. -/
theorem State.Traced.lines_of_unlatched {s : State} {driven : List Lines} {l : Lines} (h : s.Traced)
    (hp : s.phase.unlatched = driven ++ [l]) : s.lines = l := by
  rw [h.held, h.trace, hp, ← List.append_assoc]
  exact List.getLastD_concat ..

/-- Each row of the sequencer's table drives the L-trace entry, and latches the word, that the phase it leads to
accounts for. -/
theorem tick_keeps_traced {s t : State} {job : Job} (hb : s.block = .busy job) (h : tick s = .next t) (hs : s.Traced) :
    t.Traced := by
  have htrace := hs.trace
  rw [State.phase_of_busy hb] at htrace
  obtain ⟨hp, -, rfl⟩ | ⟨c, rest, hp, -, -, rfl⟩ | ⟨c, hp, rfl⟩ | ⟨c, hp, rfl⟩ | ⟨c, hp, rfl⟩ | ⟨c, hp, rfl⟩ :=
    tick_busy_cases hb h <;> rw [hp] at htrace
  · exact ⟨htrace, hs.held⟩
  · exact ⟨by simp [htrace, Phase.unlatched], by simp⟩
  · have hl : s.lines = c.lines false :=
      hs.lines_of_unlatched (driven := []) (by simp [State.phase_of_busy hb, hp, Phase.unlatched])
    exact ⟨by simp [raiseEnable, htrace, hl, Phase.unlatched, Call.lines, drivenLines], by simp [raiseEnable]⟩
  · have hl : s.lines = c.lines true :=
      hs.lines_of_unlatched (driven := [c.lines false]) (by simp [State.phase_of_busy hb, hp, Phase.unlatched])
    exact ⟨by simp [lowerEnable, htrace, hl, Phase.unlatched, Txn.lines, Call.lines, drivenLines],
      by simp [lowerEnable]⟩
  · exact ⟨by simpa [startWait, Phase.unlatched] using htrace, by simpa [startWait] using hs.held⟩
  · exact ⟨by simpa [endCall, Phase.unlatched] using htrace, by simpa [endCall] using hs.held⟩

/-- The lines after a list of calls are the last L-trace entry of the last of them. -/
theorem linesAfter_eq_getLastD (calls : List Call) (before : Lines) :
    linesAfter calls before = ((calls.map Call.txn).flatMap Txn.lines).getLastD before := by
  rcases calls.eq_nil_or_concat with rfl | ⟨init, c, rfl⟩
  · rfl
  · simp [linesAfter, List.flatMap_append, Txn.lines, Call.lines, Call.txn]

@[simp] theorem State.afterSending_phase (i : Instr) (calls : List Call) (s : State) :
    (s.afterSending i calls).phase = .idle := rfl

theorem getLastD_append {α : Type} (xs ys : List α) (d : α) : (xs ++ ys).getLastD d = ys.getLastD (xs.getLastD d) := by
  rcases ys.eq_nil_or_concat with rfl | ⟨init, y, rfl⟩
  · simp
  · rw [List.concat_eq_append, ← List.append_assoc, List.getLastD_concat, List.getLastD_concat]

theorem afterSending_traced {s : State} (i : Instr) (calls : List Call) (hidle : s.block = .idle) (hs : s.Traced) :
    (s.afterSending i calls).Traced := by
  have htrace := hs.trace
  rw [State.phase_of_idle hidle] at htrace
  constructor
  · simp [State.afterSending_lTrace, htrace, Phase.unlatched]
  · rw [State.afterSending_lTrace, State.afterSending_lines, linesAfter_eq_getLastD, hs.held, getLastD_append]

/-- Every word latched so far or still to be latched is one the encoder produces (30_encoding R69, R70). -/
structure State.Produces (s : State) : Prop where
  latched : ∀ x ∈ s.tTrace, x.produced
  pending : ∀ c ∈ s.calls, c.txn.produced

theorem Txn.encoded.produced {x : Txn} (h : x.encoded) : x.produced := by
  obtain ⟨op, he⟩ := h
  rw [Txn.produced, decode_of_encode he]
  rfl

/-- A transition latches nothing or a call that was pending. -/
theorem tick_tTrace {s t : State} {job : Job} (hb : s.block = .busy job) (h : tick s = .next t) :
    t.tTrace = s.tTrace ∨ ∃ c ∈ s.calls, t.tTrace = s.tTrace ++ [c.txn] := by
  rw [State.calls_of_busy hb]
  obtain ⟨-, -, rfl⟩ | ⟨c, rest, -, -, -, rfl⟩ | ⟨c, -, rfl⟩ | ⟨c, hp, rfl⟩ | ⟨c, -, rfl⟩ | ⟨c, -, rfl⟩ :=
    tick_busy_cases hb h
  case inr.inr.inr.inl => exact .inr ⟨c, by simp [hp, Phase.calls], rfl⟩
  all_goals exact .inl rfl

theorem tick_keeps_produces {s t : State} {job : Job} (hb : s.block = .busy job) (h : tick s = .next t)
    (hs : s.Produces) : t.Produces := by
  obtain ⟨-, hsub⟩ := tick_calls_subset hb h
  refine ⟨?_, fun c hc => hs.pending c (hsub c hc)⟩
  obtain htrace | ⟨c, hc, htrace⟩ := tick_tTrace hb h <;> rw [htrace]
  · exact hs.latched
  · exact List.forall_mem_append.2 ⟨hs.latched, List.forall_mem_singleton.2 (hs.pending c hc)⟩

/-- An operation on a free block keeps both: what it sends is the encoder's, what it drives is what it latches. -/
theorem exec_keeps_traced_produces {i : Instr} {s t : State} (hidle : s.block = .idle) (h : exec i s = .next t)
    (htraced : s.Traced) (hproduces : s.Produces) : t.Traced ∧ t.Produces := by
  obtain ⟨calls, hcalls, he⟩ | ⟨answer, he⟩ := exec_idle_sends_encoded i hidle <;> cases h.symm.trans he
  · refine ⟨afterSending_traced i calls hidle htraced, ?_, nofun⟩
    exact List.forall_mem_append.2
      ⟨hproduces.latched, List.forall_mem_map.2 fun c hc => (hcalls c hc).produced⟩
  · exact ⟨⟨htraced.trace, htraced.held⟩, hproduces.latched, hproduces.pending⟩

theorem step_keeps_traced_produces {s t : State} (h : step s = .next t) (htraced : s.Traced) (hproduces : s.Produces) :
    t.Traced ∧ t.Produces := by
  obtain ⟨job, hb, ht⟩ | ⟨-, -, rfl⟩ | ⟨hidle, before, i, after, -, he⟩ := step_cases h
  · exact ⟨tick_keeps_traced hb ht htraced, tick_keeps_produces hb ht hproduces⟩
  · exact ⟨htraced, hproduces⟩
  · exact exec_keeps_traced_produces (s := { s with waiting := before ++ after, admissions := s.admissions + 1 })
      hidle he ⟨htraced.trace, htraced.held⟩ ⟨hproduces.latched, hproduces.pending⟩

/-- Settles O45: no step writes the table or the pins, and every step keeps the clauses about the traces and the
words. -/
theorem stepKeepsInvariant : Obligations.StepKeepsInvariant := by
  intro s t hs h
  obtain ⟨htable, hpins, hdir⟩ := step_keeps_table_and_pins h
  obtain ⟨htraced, hproduces⟩ := step_keeps_traced_produces h ⟨hs.trace, hs.held⟩ ⟨hs.latched, hs.pending⟩
  exact {
    table := htable ▸ hs.table
    letterA := htable ▸ hs.letterA
    pins := hpins ▸ hs.pins
    outputs := hdir ▸ hs.outputs
    trace := htraced.trace
    held := htraced.held
    latched := hproduces.latched
    pending := hproduces.pending }

end Sys2Proof.Machine

/-! What an operation on a free block sends, drives, reports and leaves alone. -/

namespace Sys2Proof.Machine

/-- `exec_cases` on a free block, where nothing is held. -/
theorem exec_cases_of_idle {i : Instr} {s t : State} (h : s.block = .idle) (he : exec i s = .next t) :
    (∃ calls, (∀ c ∈ calls, c.rw = false) ∧ t = s.afterSending i calls) ∨
    (∃ answer, answer ≠ .ok ∧ t = s.afterReport i answer) := by
  obtain ⟨job, hb, -⟩ | ⟨-, hsent⟩ | ⟨-, hreported⟩ := exec_cases he
  · rw [h] at hb; cases hb
  · exact .inl hsent
  · exact .inr hreported

/-- One report is appended, so two ways to write it have the same answer. -/
theorem append_report_inj {reports : List Report} {i : Instr} {a b : Answer} :
    reports ++ [{ op := i, answer := a }] = reports ++ [{ op := i, answer := b }] ↔ a = b := by
  simp

theorem linesAfter_of_getLast? {calls : List Call} {c : Call} (h : calls.getLast? = some c) (before : Lines) :
    linesAfter calls before = c.lines false := by
  simp only [linesAfter, h]

/-- 20_memory R45, R46: during a call bit i of the byte stands on line DBi, beside RS, RW and E. -/
theorem Call.lines_eq_bits (c : Call) (e : Bool) :
    c.lines e =
      { rs := some c.rs, rw := some c.rw, e := e,
        db7 := some (c.d.getLsbD 7), db6 := some (c.d.getLsbD 6), db5 := some (c.d.getLsbD 5),
        db4 := some (c.d.getLsbD 4), db3 := some (c.d.getLsbD 3), db2 := some (c.d.getLsbD 2),
        db1 := some (c.d.getLsbD 1), db0 := some (c.d.getLsbD 0) } := by
  simp [Call.lines, drivenLines, maskBit_eq]

/-- Settles O26: the last word appended is that of the last call, whose lines stay. -/
theorem linesHoldTheLastWord : Obligations.LinesHoldTheLastWord := by
  intro i s t h he words x hwords hlast
  obtain ⟨calls, -, rfl⟩ | ⟨answer, -, rfl⟩ := exec_cases_of_idle h he
  · obtain rfl : calls.map Call.txn = words := List.append_cancel_left hwords
    obtain ⟨c, hc, rfl⟩ := Option.map_eq_some_iff.1 (List.getLast?_map.symm.trans hlast)
    rw [State.afterSending_lines, linesAfter_of_getLast? hc, Call.lines_eq_bits]
    exact ⟨rfl, rfl, rfl, rfl, rfl, rfl, rfl, rfl, rfl, rfl, rfl⟩
  · obtain rfl : words = [] := by simpa using hwords
    cases hlast

/-- Settles O27: sending and reporting write no other field, and a run of no calls drives no line. -/
theorem operationFrame : Obligations.OperationFrame := by
  intro i s t h he
  obtain ⟨calls, -, rfl⟩ | ⟨answer, -, rfl⟩ := exec_cases_of_idle h he
  · refine ⟨rfl, rfl, fun _ => rfl, rfl, rfl, rfl, rfl, ⟨_, rfl⟩, ⟨_, rfl⟩, ⟨_, rfl⟩, fun hnone => ?_⟩
    obtain rfl : calls = [] := by simpa using hnone
    exact ⟨rfl, List.append_nil _⟩
  · exact ⟨h, rfl, fun _ => rfl, rfl, rfl, rfl, rfl, ⟨[], by simp⟩, ⟨[], by simp⟩, ⟨_, rfl⟩, fun _ => ⟨rfl, rfl⟩⟩

/-- With a call sent, what the lines held before does not matter. -/
theorem linesAfter_eq_of_ne_nil {calls : List Call} (h : calls ≠ []) (before before' : Lines) :
    linesAfter calls before = linesAfter calls before' := by
  have hlast := List.getLast?_eq_some_getLast h
  rw [linesAfter_of_getLast? hlast, linesAfter_of_getLast? hlast]

/-- Settles O30: the operation and the table decide what is sent or reported, and the last call decides the lines. -/
theorem operationIgnoresPriorState : Obligations.OperationIgnoresPriorState := by
  intro i s₁ s₂ t₁ t₂ h₁ h₂ htable he₁ he₂
  obtain ⟨calls, hsent⟩ | ⟨answer, hreported⟩ := exec_idle_cases_of_table i s₁.charTab
  · cases he₁.symm.trans (hsent s₁ h₁ rfl)
    cases he₂.symm.trans (hsent s₂ h₂ htable.symm)
    refine ⟨calls.flatMap Call.events, calls.map Call.txn, .ok, rfl, rfl, rfl, rfl, rfl, rfl, fun hne => ?_⟩
    exact linesAfter_eq_of_ne_nil (by simpa using hne) _ _
  · cases he₁.symm.trans (hreported s₁ h₁ rfl)
    cases he₂.symm.trans (hreported s₂ h₂ htable.symm)
    exact ⟨[], [], answer, by simp, by simp, by simp, by simp, rfl, rfl, nofun⟩

/-- 41_instruction_commands R110 to R115, 42_data_and_text R130: a single-word operation on a free block makes one
call, of class LONG for clear_display and return_home only, or its operand is out of range and it reports RangeError. -/
theorem exec_singleWord {i : Instr} {s : State} (h : s.block = .idle) (hs : i.singleWord = true) :
    (i.wellFormed = true ∧ ∃ c : Call, c.cls = (if i = .clearDisplay ∨ i = .returnHome then .long else .short) ∧
      exec i s = .next (s.afterSending i [c])) ∨
    (i.wellFormed = false ∧ exec i s = .next (s.afterReport i (.error .rangeError))) := by
  cases i with
  | clearDisplay => exact .inl ⟨rfl, _, rfl, (execClearDisplay_idle h).trans (transmit_ir ..)⟩
  | returnHome => exact .inl ⟨rfl, _, rfl, (execReturnHome_idle h).trans (transmit_ir ..)⟩
  | entryModeSet => exact .inl ⟨rfl, _, rfl, (execEntryModeSet_idle _ _ h).trans (transmit_ir ..)⟩
  | displayControl => exact .inl ⟨rfl, _, rfl, (execDisplayControl_idle _ _ _ h).trans (transmit_ir ..)⟩
  | functionSet => exact .inl ⟨rfl, _, rfl, (execFunctionSet_idle _ _ _ h).trans (transmit_ir ..)⟩
  | setDdramAddress a =>
    by_cases ha : 0 ≤ a ∧ a ≤ 127
    · exact .inl ⟨decide_eq_true ha, _, rfl,
        (execSetDdramAddress_idle h (addressField_inRange ha)).trans (transmit_ir ..)⟩
    · exact .inr ⟨decide_eq_false ha, execSetDdramAddress_rangeError h (addressField_outOfRange (by omega))⟩
  | writeData v =>
    by_cases hv : 0 ≤ v ∧ v ≤ 255
    · exact .inl ⟨decide_eq_true hv, _, rfl, (execWriteData_idle h (dataField_inRange hv)).trans (transmit_dr ..)⟩
    · exact .inr ⟨decide_eq_false hv, execWriteData_rangeError h (dataField_outOfRange (by omega))⟩
  | resolveChar => cases hs
  | writeText => cases hs

/-- 42_data_and_text R132, R133: the two checks of a write_text, in order, and what it sends when both pass. -/
theorem exec_writeText (text : List CodePoint) (twoLine : Bool) {s : State} (h : s.block = .idle) :
    (twoLine = true ∧
      exec (.writeText text twoLine) s = .next (s.afterReport (.writeText text twoLine) (.error .notImplemented))) ∨
    (twoLine = false ∧ (∃ c ∈ text, Memory.read s.charTab c.val = none) ∧
      exec (.writeText text twoLine) s = .next (s.afterReport (.writeText text twoLine) (.error .lookupError))) ∨
    (twoLine = false ∧ ∃ codes : List Byte, text.map (fun c => Memory.read s.charTab c.val) = codes.map some ∧
      exec (.writeText text twoLine) s =
        .next (s.afterSending (.writeText text twoLine) (textPreamble ++ codes.map drCall))) := by
  cases twoLine with
  | true => exact .inl ⟨rfl, execWriteText_twoLine text h⟩
  | false =>
    cases hr : resolveAll s.charTab text with
    | none => exact .inr (.inl ⟨rfl, resolveAll_eq_none_iff.1 hr, execWriteText_absent h hr⟩)
    | some codes =>
      exact .inr (.inr ⟨rfl, codes, resolveAll_eq_some_iff.1 hr,
        (execWriteText_resolved h hr).trans (transmit_text ..)⟩)

/-- The operations of R60 by the number of their words: one, none, or one a character after the five fixed ones. -/
theorem singleWord_or_resolveChar_or_writeText (i : Instr) :
    i.singleWord = true ∨ (∃ c, i = .resolveChar c) ∨ ∃ text twoLine, i = .writeText text twoLine := by
  cases i with
  | resolveChar c => exact .inr (.inl ⟨c, rfl⟩)
  | writeText text twoLine => exact .inr (.inr ⟨text, twoLine, rfl⟩)
  | _ => exact .inl rfl

/-- 60_exceptions R151: the single-word operations whose operand check fails are those with an address or a value out
of its inclusive bounds. -/
theorem not_wellFormed_iff_outOfRange {i : Instr} (hs : i.singleWord = true) :
    i.wellFormed = false ↔
      (∃ a, i = .setDdramAddress a ∧ (a < 0 ∨ 127 < a)) ∨ (∃ v, i = .writeData v ∧ (v < 0 ∨ 255 < v)) := by
  cases i with
  | setDdramAddress a =>
    have hbounds : (0 ≤ a → 127 < a) ↔ a < 0 ∨ 127 < a := by omega
    simpa [Instr.wellFormed] using hbounds
  | writeData v =>
    have hbounds : (0 ≤ v → 255 < v) ↔ v < 0 ∨ 255 < v := by omega
    simpa [Instr.wellFormed] using hbounds
  | resolveChar => cases hs
  | writeText => cases hs
  | _ => simp [Instr.wellFormed]

/-- Settles O28: one report tells how each kind of operation ended, and the checks that kind makes tell why. -/
theorem errorsHaveExactlyTheirCauses : Obligations.ErrorsHaveExactlyTheirCauses := by
  intro i s t h he
  obtain hs | ⟨c, rfl⟩ | ⟨text, twoLine, rfl⟩ := singleWord_or_resolveChar_or_writeText i
  · have hchar (c) : i ≠ .resolveChar c := by rintro rfl; cases hs
    have htext (text twoLine) : i ≠ .writeText text twoLine := by rintro rfl; cases hs
    rw [← not_wellFormed_iff_outOfRange hs]
    obtain ⟨hw, c, -, he'⟩ | ⟨hw, he'⟩ := exec_singleWord h hs <;> cases he.symm.trans he' <;> simp [hw, hchar, htext]
  · cases hr : Memory.read s.charTab c.val with
    | none => cases he.symm.trans (execResolveChar_absent h hr); simp [hr]
    | some code => cases he.symm.trans (execResolveChar_key h hr); simp [hr]
  · obtain ⟨rfl, he'⟩ | ⟨rfl, habsent, he'⟩ | ⟨rfl, codes, hcodes, he'⟩ := exec_writeText text twoLine h <;>
      cases he.symm.trans he'
    · simp
    · simpa using habsent
    · have hresolved : ¬∃ c ∈ text, Memory.read s.charTab c.val = none := by
        rw [← resolveAll_eq_none_iff, resolveAll_eq_some_iff.2 hcodes]
        nofun
      simpa using hresolved

/-- Three L-trace entries a latched word (40_bus_sequencer R100). -/
theorem State.afterSending_lTrace_length (i : Instr) (calls : List Call) (s : State) :
    (s.afterSending i calls).lTrace.length = s.lTrace.length + 3 * calls.length := by
  have hthree : ((calls.map Call.txn).flatMap Txn.lines).length = 3 * calls.length := by
    induction calls with
    | nil => rfl
    | cons c calls ih => simp [ih, Txn.lines]; omega
  rw [State.afterSending_lTrace, List.length_append, hthree]

/-- 95 section 2.5: an operation that sends makes one call, or 5 + n of them for a text of n characters. -/
theorem calls_length_of_exec {i : Instr} {s : State} {calls : List Call} (h : s.block = .idle)
    (he : exec i s = .next (s.afterSending i calls)) :
    (i.singleWord = true → calls.length = 1) ∧
      (∀ text twoLine, i = .writeText text twoLine → calls.length = 5 + text.length) := by
  have hcalls {calls' : List Call} (he' : exec i s = .next (s.afterSending i calls')) :
      calls.length = calls'.length := by
    have htTrace := congrArg State.tTrace (Host.Outcome.next.inj (he.symm.trans he'))
    simpa using congrArg List.length htTrace
  have hreport {answer : Answer} (he' : exec i s = .next (s.afterReport i answer)) : answer = .ok := by
    have hreports := congrArg State.reports (Host.Outcome.next.inj (he'.symm.trans he))
    exact append_report_inj.1 hreports
  constructor
  · intro hs
    obtain ⟨-, c, -, he'⟩ | ⟨-, he'⟩ := exec_singleWord h hs
    · exact hcalls he'
    · cases hreport he'
  · rintro text twoLine rfl
    obtain ⟨-, he'⟩ | ⟨-, -, he'⟩ | ⟨-, codes, hcodes, he'⟩ := exec_writeText text twoLine h
    · cases hreport he'
    · cases hreport he'
    · have hlength : text.length = codes.length := by simpa using congrArg List.length hcodes
      rw [hcalls he', List.length_append, List.length_map, hlength]
      rfl

/-- Settles O32: each call of an operation that sends is a word and three lines; one that reports adds none. -/
theorem transactionCountLaw : Obligations.TransactionCountLaw := by
  intro i s t h he
  obtain ⟨calls, -, rfl⟩ | ⟨answer, hne, rfl⟩ := exec_cases_of_idle h he
  · exact ⟨calls.length, by simp, State.afterSending_lTrace_length .., fun _ => calls_length_of_exec h he,
      fun hnot => absurd rfl hnot⟩
  · exact ⟨0, rfl, rfl, fun hok => absurd (append_report_inj.1 hok) hne, fun _ => rfl⟩

/-- 70_reset_and_hazards R195: the least time is the sum of the waits, in whatever order they stand. -/
theorem minTime_eq_sum_waits (events : List Event) : minTime events = ((waits events).map Config.minWait).sum := by
  induction events with
  | nil => rfl
  | cons event events ih =>
    cases event with
    | drive lines => exact ih
    | wait w => exact congrArg (Config.minWait w + ·) ih

/-- Settles O33: the one call of a single-word operation waits as R97 orders, and its class is that of R110 to R115. -/
theorem onlyClearAndHomeWaitLong : Obligations.OnlyClearAndHomeWaitLong := by
  intro i s h hs hw
  obtain ⟨-, c, hcls, he⟩ | ⟨hfailed, -⟩ := exec_singleWord h hs
  · have hevents : (s.afterSending i [c]).events = s.events ++ c.events := by simp
    refine ⟨_, c.events, he, hevents, by rw [Call.events_waits, hcls], ?_⟩
    rw [hevents, minTime_eq_sum_waits, waits_append, List.map_append, List.sum_append, ← minTime_eq_sum_waits,
      Call.events_waits, hcls]
    simp [Nat.add_assoc]
  · rw [hw] at hfailed; cases hfailed

end Sys2Proof.Machine

/-! The text write (42_data_and_text R132 to R136) and its expansion (30_encoding R75). -/

namespace Sys2Proof.Machine

/-- The five fixed words of a write_text, with the defaults of D10 to D12. -/
theorem textPreamble_eq : textPreamble =
    [⟨false, false, 0x01#8, .long⟩, ⟨false, false, 0x80#8, .short⟩, ⟨false, false, 0x30#8, .short⟩,
      ⟨false, false, 0x0C#8, .short⟩, ⟨false, false, 0x06#8, .short⟩] := by
  decide

/-- Settles O21: a text whose characters are all keys resolves, and its run is the preamble and one call a code. -/
theorem writeTextSendsPreambleThenCodes : Obligations.WriteTextSendsPreambleThenCodes := by
  intro text codes s h hcodes
  rw [← textPreamble_eq]
  exact (execWriteText_resolved h (resolveAll_eq_some_iff.2 hcodes)).trans (transmit_text ..)

/-- Settles O22: `two_line` is tested first; without it an absent character makes the resolution fail. -/
theorem writeTextChecksBeforeSending : Obligations.WriteTextChecksBeforeSending :=
  fun text _ h => ⟨execWriteText_twoLine text h,
    fun habsent => execWriteText_absent h (resolveAll_eq_none_iff.2 habsent)⟩

/-- On every free block the operation sends this one call. -/
def Sends (i : Instr) (c : Call) : Prop :=
  ∀ s : State, s.block = .idle → exec i s = .next (s.afterSending i [c])

theorem writeData_sends (d : Byte) : Sends (.writeData d.toNat) (drCall d) := by
  intro s h
  have hd : 0 ≤ (d.toNat : Int) ∧ (d.toNat : Int) ≤ 255 := by have := d.isLt; omega
  exact (execWriteData_idle h (by simp [dataField_inRange hd])).trans (transmit_dr ..)

/-- 42_data_and_text R132: the operations the five fixed words stand for. -/
theorem preamble_sends :
    List.Forall₂ Sends
      [.clearDisplay, .setDdramAddress 0, .functionSet true false false, .displayControl true false false,
        .entryModeSet false false] textPreamble :=
  .cons (fun _ h => (execClearDisplay_idle h).trans (transmit_ir ..)) <|
  .cons (fun _ h => (execSetDdramAddress_idle h rfl).trans (transmit_ir ..)) <|
  .cons (fun _ h => (execFunctionSet_idle _ _ _ h).trans (transmit_ir ..)) <|
  .cons (fun _ h => (execDisplayControl_idle _ _ _ h).trans (transmit_ir ..)) <|
  .cons (fun _ h => (execEntryModeSet_idle _ _ h).trans (transmit_ir ..)) .nil

theorem linesAfter_nil (before : Lines) : linesAfter [] before = before := rfl

theorem linesAfter_cons (c : Call) (calls : List Call) (before : Lines) :
    linesAfter (c :: calls) before = linesAfter calls (c.lines false) := by
  cases calls with
  | nil => rfl
  | cons c' calls => simp [linesAfter, List.getLast?_eq_some_getLast]

/-- 30_encoding R75: operations of one call each, run one after the other, send what one operation with all the calls
sends, whichever that is, and report one by one. -/
theorem execAll_of_sends {ops : List Instr} {calls : List Call} (hsends : List.Forall₂ Sends ops calls) (op : Instr)
    {s : State} (h : s.block = .idle) :
    execAll ops s = .next { s.afterSending op calls with
      reports := s.reports ++ ops.map fun i => { op := i, answer := .ok } } := by
  induction hsends generalizing s with
  | nil => simp [execAll, State.afterSending, linesAfter_nil, ← h]
  | @cons i c ops calls hsend _ ih =>
    rw [execAll_cons_of_next ops (hsend s h), ih (State.afterSending_block ..)]
    simp [State.afterSending, linesAfter_cons, linesAfter_nil]

/-- Settles O23: the component operations make the calls of the write_text, one each. -/
theorem writeTextIsItsExpansion : Obligations.WriteTextIsItsExpansion := by
  intro text codes s h hcodes
  have hdata : List.Forall₂ Sends (codes.map fun d => .writeData d.toNat) (codes.map drCall) := by
    rw [List.forall₂_map_left_iff, List.forall₂_map_right_iff]
    exact List.forall₂_same.2 fun d _ => writeData_sends d
  refine ⟨_, _, (execWriteText_resolved h (resolveAll_eq_some_iff.2 hcodes)).trans (transmit_text ..),
    execAll_of_sends (List.rel_append preamble_sends hdata) (.writeText text false) h, rfl⟩

/-- Settles O24: 'A' resolves to 0x41, and the last of the six calls leaves its byte on the lines. -/
theorem writeTextOfLetterA : Obligations.WriteTextOfLetterA := by
  intro s h hA
  have hcodes : [(0x41 : CodePoint)].map (fun c => Memory.read s.charTab c.val) = [0x41#8].map some :=
    congrArg ([·]) hA
  refine ⟨_, writeTextSendsPreambleThenCodes _ _ s h hcodes, rfl, fun n => ?_, rfl⟩
  cases n <;> rfl

/-- Settles O25: the code the key resolves to is the code point, so it is the byte of that number. -/
theorem asciiKeyResolvesToItself : Obligations.AsciiKeyResolvesToItself := by
  intro c s h hascii hlow hhigh hkey
  obtain ⟨code, hread⟩ := Option.isSome_iff_exists.1 hkey
  have hcode : BitVec.ofNat 8 c.val = code := by
    rw [← hascii c hlow hhigh code hread, BitVec.ofNat_toNat, BitVec.setWidth_eq]
  rw [hcode]
  exact execResolveChar_key h hread

end Sys2Proof.Machine

/-! The run of an operation in progress, step by step: each transition is one step nearer to the end, and until then a
step is a transition, whatever requests are held. -/

namespace Sys2Proof.Machine

/-- The transitions to the end of the transaction in flight (40_bus_sequencer R97). -/
def Phase.stepsLeft : Phase → Nat
  | .idle => 0
  | .setup _ => 4
  | .eHigh _ => 3
  | .eLow _ => 2
  | .wait _ => 1

/-- The transitions to the end of the operation: five a call not started, and one to end. -/
def Job.stepsLeft (job : Job) : Nat := 5 * job.todo.length + job.phase.stepsLeft + 1

/-- A transition ends the operation when it is the last, and leaves one fewer otherwise. -/
theorem tick_stepsLeft {s t : State} {job : Job} (hb : s.block = .busy job) (h : tick s = .next t) :
    job.stepsLeft = 1 ∨ ∃ job', t.block = .busy job' ∧ job.stepsLeft = job'.stepsLeft + 1 := by
  unfold Job.stepsLeft
  obtain ⟨hp, htodo, -⟩ | ⟨c, rest, hp, htodo, -, rfl⟩ | ⟨c, hp, rfl⟩ | ⟨c, hp, rfl⟩ | ⟨c, hp, rfl⟩ | ⟨c, hp, rfl⟩ :=
    tick_busy_cases hb h
  · exact .inl (by simp [hp, htodo, Phase.stepsLeft])
  · exact .inr ⟨_, rfl, by simp [hp, htodo, Phase.stepsLeft]; omega⟩
  all_goals exact .inr ⟨_, rfl, by simp [hp, Phase.stepsLeft]⟩

theorem run_add_of_next {m n : Nat} {s t : State} (h : Host.Core.run core m s = .next t) :
    Host.Core.run core (m + n) s = Host.Core.run core n t := by
  induction m generalizing s with
  | zero => cases h; rw [Nat.zero_add]
  | succ m ih =>
    rw [Nat.add_right_comm]
    simp only [Host.Core.run] at h ⊢
    cases hs : core.step s with
    | next u => rw [hs] at h; exact ih h
    | fault r => cases r
    | refused r => rw [hs] at h; cases h

/-- 40_bus_sequencer R97: as long as the operation in progress has not ended, the block's steps are the sequencer's
transitions. -/
theorem run_eq_ticks {n : Nat} {s : State} {job : Job} (hb : s.block = .busy job) (hn : n ≤ job.stepsLeft) :
    Host.Core.run core n s = ticks n s := by
  induction n generalizing s job with
  | zero => rfl
  | succ n ih =>
    have hstep : core.step s = tick s := step_busy hb
    simp only [Host.Core.run, ticks, hstep]
    cases ht : tick s with
    | fault r => cases r
    | refused r => rfl
    | next t =>
      obtain hlast | ⟨job', hb', hleft⟩ := tick_stepsLeft hb ht
      · obtain rfl : n = 0 := by omega
        rfl
      · exact ih hb' (by omega)

/-- The whole run of an accepted operation with write calls (00_scope R4). -/
theorem run_accept (op : Instr) {calls : List Call} (s : State) (hrw : ∀ c ∈ calls, c.rw = false) :
    Host.Core.run core (5 * calls.length + 1) (s.accept op calls) = .next (s.afterSending op calls) := by
  have hticks : Host.Core.run core (jobLength calls) (s.accept op calls) =
      ticks (jobLength calls) (s.accept op calls) :=
    run_eq_ticks (State.accept_block ..) (Nat.le_refl _)
  exact hticks.trans (transmit_eq op calls s hrw)

/-- Settles O40: an operation answered ok sent calls, and their stepped run is the run to the end. -/
theorem steppedRunReachesTheWholeOperation : Obligations.SteppedRunReachesTheWholeOperation := by
  refine ⟨fun i s t h he hok => ?_, fun op calls s hrw => run_accept op s hrw⟩
  obtain ⟨calls, hrw, rfl⟩ | ⟨answer, hne, rfl⟩ := exec_cases_of_idle h he
  · exact ⟨calls, hrw, rfl, (run_accept i s hrw).trans he.symm⟩
  · exact absurd (append_report_inj.1 hok) hne

/-- The call of the transaction in flight while its word is not latched. -/
def Phase.unlatchedCalls : Phase → List Call
  | .idle => []
  | .setup c => [c]
  | .eHigh c => [c]
  | .eLow _ => []
  | .wait _ => []

/-- The transaction in flight runs to its end: its word is latched if it was not, no caller is told or touched, and
the calls not started are left. -/
theorem run_transaction {s : State} {job : Job} (hb : s.block = .busy job) :
    ∃ t : State, Host.Core.run core job.phase.stepsLeft s = .next t ∧
      t.block = .busy ⟨job.op, job.todo, .idle⟩ ∧ t.reports = s.reports ∧ t.waiting = s.waiting ∧
      t.tTrace = s.tTrace ++ job.phase.unlatchedCalls.map Call.txn := by
  obtain ⟨op, todo, phase⟩ := job
  obtain ⟨lines, block, charTab, pinMap, pinDir, waiting, admissions, events, tTrace, reports⟩ := s
  cases hb
  cases phase with
  | idle => exact ⟨_, rfl, rfl, rfl, rfl, (List.append_nil _).symm⟩
  | setup c => exact ⟨_, rfl, rfl, rfl, rfl, rfl⟩
  | eHigh c => exact ⟨_, rfl, rfl, rfl, rfl, rfl⟩
  | eLow c => exact ⟨_, rfl, rfl, rfl, rfl, (List.append_nil _).symm⟩
  | wait c => exact ⟨_, rfl, rfl, rfl, rfl, (List.append_nil _).symm⟩

/-- Settles O41: the transaction in flight runs to its end, and then the calls not started run as those of an accepted
operation. -/
theorem operationInProgressEnds : Obligations.OperationInProgressEnds := by
  intro s job hb hrw
  obtain ⟨t, hrun, hblock, hreports, hwaiting, htTrace⟩ := run_transaction hb
  have htodo : ∀ c ∈ job.todo, c.rw = false := fun c hc => hrw c (by simp [State.calls_of_busy hb, hc])
  have haccepted : t = t.accept job.op job.todo := by
    rw [State.accept, ← hblock]; rfl
  have hend : Host.Core.run core (5 * job.todo.length + 1) t = .next (t.afterSending job.op job.todo) := by
    conv_lhs => rw [haccepted]
    exact run_accept job.op t htodo
  have hbound : job.phase.stepsLeft ≤ 4 := by cases job.phase <;> simp [Phase.stepsLeft]
  refine ⟨_, t.afterSending job.op job.todo, ?_, (run_add_of_next hrun).trans hend, rfl, ?_, hwaiting, ?_⟩
  · omega
  · rw [State.afterSending_reports, hreports]
  · rw [State.afterSending_tTrace, htTrace, List.append_assoc, ← List.map_append]
    cases job.phase <;> rfl

end Sys2Proof.Machine

/-! The bus signals read off the traces and the pins (40_bus_sequencer section 1 and R102). -/

namespace Sys2Proof.Machine

/-- Two neighbouring L-trace entries: around E true nothing but E changes (40_bus_sequencer R94, R95). -/
def StableStep (l m : Lines) : Prop :=
  l.e = true ∨ m.e = true → l.e ≠ m.e ∧ { l with e := false } = { m with e := false }

theorem stableStep_of_low {l m : Lines} (hl : l.e = false) (hm : m.e = false) : StableStep l m := by
  simp [StableStep, hl, hm]

theorem stableStep_of_strobe (rs rw : Bool) (d : Byte) {e e' : Bool} (h : e ≠ e') :
    StableStep (drivenLines rs rw e d) (drivenLines rs rw e' d) :=
  fun _ => ⟨h, rfl⟩

theorem drivenLines_get_isSome (rs rw e : Bool) (d : Byte) (n : Line) :
    ((drivenLines rs rw e d).get n).isSome = true := by
  cases n <;> rfl

/-- The L-trace entries of latched words and of a transaction in flight are driven lines. -/
theorem mem_strobes {words : List Txn} {p : Phase} {l : Lines} (h : l ∈ words.flatMap Txn.lines ++ p.unlatched) :
    ∃ rs rw e d, l = drivenLines rs rw e d := by
  rcases List.mem_append.1 h with h | h
  · obtain ⟨x, -, hl⟩ := List.mem_flatMap.1 h
    simp only [Txn.lines, List.mem_cons, List.not_mem_nil, or_false] at hl
    obtain rfl | rfl | rfl := hl <;> exact ⟨_, _, _, _, rfl⟩
  · cases p <;> simp only [Phase.unlatched, Call.lines, List.mem_cons, List.not_mem_nil, or_false] at h
    · exact ⟨_, _, _, _, h⟩
    · obtain rfl | rfl := h <;> exact ⟨_, _, _, _, rfl⟩

/-- A call that has raised E has gone through one stable step. -/
theorem eHigh_isChain (rs rw : Bool) (d : Byte) :
    [drivenLines rs rw false d, drivenLines rs rw true d].IsChain StableStep :=
  List.isChain_pair.2 (stableStep_of_strobe rs rw d Bool.false_ne_true)

/-- A latched word pulses E once. -/
theorem Txn.lines_isChain (x : Txn) : x.lines.IsChain StableStep :=
  .cons_cons (stableStep_of_strobe x.rs x.rw x.d Bool.false_ne_true)
    (List.isChain_pair.2 (stableStep_of_strobe x.rs x.rw x.d Bool.false_ne_true.symm))

/-- Each word begins and ends with E false and pulses E once, and so does what a transaction in flight has driven, as
far as it has come. -/
theorem strobes_stable (words : List Txn) (p : Phase) :
    (words.flatMap Txn.lines ++ p.unlatched).IsChain StableStep ∧
      ∀ l ∈ (words.flatMap Txn.lines ++ p.unlatched).head?, l.e = false := by
  induction words with
  | nil =>
    rw [List.flatMap_nil, List.nil_append]
    cases p with
    | setup c => exact ⟨.singleton _, by simp [Phase.unlatched, Call.lines, drivenLines]⟩
    | eHigh c => exact ⟨eHigh_isChain c.rs c.rw c.d, by simp [Phase.unlatched, Call.lines, drivenLines]⟩
    | _ => exact ⟨.nil, by simp [Phase.unlatched]⟩
  | cons x words ih =>
    obtain ⟨hchain, hfirst⟩ := ih
    rw [List.flatMap_cons, List.append_assoc]
    refine ⟨List.isChain_append.2 ⟨x.lines_isChain, hchain, fun l hl m hm => ?_⟩, by simp [Txn.lines, drivenLines]⟩
    have hlow : l.e = false := by
      obtain rfl : drivenLines x.rs x.rw false x.d = l := by simpa [Txn.lines] using hl
      rfl
    exact stableStep_of_low hlow (hfirst m hm)

/-- Settles O46: the trace clause of the invariant makes the L-trace a list of strobes. -/
theorem linesAreStableWhileEnabled : Obligations.LinesAreStableWhileEnabled := by
  intro s hs
  rw [hs.trace]
  obtain ⟨hchain, hfirst⟩ := strobes_stable s.tTrace s.phase
  refine ⟨fun l hl n => ?_, fun l hl => hfirst l ?_, fun k l m hl hm => ?_⟩
  · obtain ⟨rs, rw, e, d, rfl⟩ := mem_strobes hl
    exact drivenLines_get_isSome rs rw e d n
  · rw [List.head?_eq_getElem?, hl]; rfl
  · obtain ⟨hk, rfl⟩ := List.getElem?_eq_some_iff.1 hm
    obtain ⟨_, rfl⟩ := List.getElem?_eq_some_iff.1 hl
    exact hchain.getElem k hk

theorem Line.mem_all (n : Line) : n ∈ Line.all := by cases n <;> decide

/-- The line found on a pin is the one bound to it, since no two are (10_state R23). -/
theorem find_pin_eq_some {p : PinMap} (h : p.ids.Nodup) (n : Line) :
    Line.all.find? (fun m => p.pin m == p.pin n) = some n := by
  have hsome : (Line.all.find? (fun m => p.pin m == p.pin n)).isSome :=
    List.find?_isSome.2 ⟨n, n.mem_all, beq_self_eq_true _⟩
  obtain ⟨m, hm⟩ := Option.isSome_iff_exists.1 hsome
  have hpin : p.pin m = p.pin n := by simpa using List.find?_some hm
  rw [hm, List.inj_on_of_nodup_map h m.mem_all n.mem_all hpin]

/-- Settles O47: a pin of the binding carries its one line, and a pin outside it is found on no line. -/
theorem pinsCarryTheirLines : Obligations.PinsCarryTheirLines := by
  refine fun s h => ⟨fun n => ?_, fun p hp => ?_⟩
  · rw [State.pinLevel, find_pin_eq_some h n]
  · have hnone : Line.all.find? (fun n => s.pinMap.pin n == p) = none :=
      List.find?_eq_none.2 fun n hn heq => hp (List.mem_map.2 ⟨n, hn, by simpa using heq⟩)
    rw [State.pinLevel, hnone]

end Sys2Proof.Machine

/-! Reset and construction (10_state R32, 70_reset_and_hazards R180 to R183), and the status codes. -/

namespace Sys2Proof.Machine

/-- Settles O1: each field has the value of the reset table, and 'A' is set last in the table. -/
theorem resetIsAnIdleBlockWithUnwrittenLines : Obligations.ResetIsAnIdleBlockWithUnwrittenLines := by
  refine ⟨fun n => ?_, rfl, rfl, rfl, rfl, rfl, rfl, rfl, rfl, rfl, charTabAtConstruction_letterA⟩
  cases n <;> rfl

/-- Settles O2: the table is canonical by construction, and nothing was driven, latched or accepted. -/
theorem resetMeetsInvariant : Obligations.ResetMeetsInvariant where
  table := State.reset_table_wf
  letterA := charTabAtConstruction_letterA
  pins := by decide
  outputs := rfl
  trace := rfl
  held := rfl
  latched := nofun
  pending := nofun

/-- A binding has the identifiers it was made of, in order (D27). -/
theorem bindPins_ids {ids : List Nat} {pins : PinMap} (h : bindPins ids = some pins) : pins.ids = ids := by
  unfold bindPins at h
  split at h <;> cases h
  rfl

theorem bindPins_of_length {ids : List Nat} (h : ids.length = 11) : ∃ pins, bindPins ids = some pins := by
  match ids, h with
  | [_, _, _, _, _, _, _, _, _, _, _], _ => exact ⟨_, rfl⟩

theorem bindPins_eq_none {ids : List Nat} (h : ids.length ≠ 11) : bindPins ids = none := by
  by_contra hsome
  obtain ⟨pins, hpins⟩ := Option.ne_none_iff_exists'.1 hsome
  exact h (by rw [← bindPins_ids hpins]; rfl)

/-- The pin layer grants all pins or refuses one (R180). -/
theorem claimPins_granted_iff {claim : Nat → Bool} {ids : List Nat} :
    (claimPins claim ids).2 = true ↔ ∀ p ∈ ids, claim p = true := by
  induction ids with
  | nil => simp [claimPins]
  | cons p ids ih => cases hp : claim p <;> simp [claimPins, hp, ih]

/-- When it grants all, it was asked for each once, in order. -/
theorem claimPins_asked {claim : Nat → Bool} {ids : List Nat} (h : ∀ p ∈ ids, claim p = true) :
    (claimPins claim ids).1 = ids := by
  induction ids with
  | nil => rfl
  | cons p ids ih =>
    obtain ⟨hp, hids⟩ := List.forall_mem_cons.1 h
    simp [claimPins, hp, ih hids]

/-- The outcomes of a construction by its checks in their order (D21): the identifiers first, then the claims. -/
theorem construct_of_not_distinct {ids : List Nat} {claim : Nat → Bool} (h : ¬(ids.length = 11 ∧ ids.Nodup)) :
    construct ids claim = { state := noBlock, answer := .error .constructionFailure, asked := [] } := by
  by_cases hlen : ids.length = 11
  · obtain ⟨pins, hpins⟩ := bindPins_of_length hlen
    simp [construct, hpins, show ¬ids.Nodup from fun hnodup => h ⟨hlen, hnodup⟩]
  · simp [construct, bindPins_eq_none hlen]

theorem construct_of_refused {ids : List Nat} {claim : Nat → Bool} (hlen : ids.length = 11) (hnodup : ids.Nodup)
    (h : ¬∀ p ∈ ids, claim p = true) :
    construct ids claim =
      { state := noBlock, answer := .error .constructionFailure, asked := (claimPins claim ids).1 } := by
  obtain ⟨pins, hpins⟩ := bindPins_of_length hlen
  simp [construct, hpins, hnodup, mt claimPins_granted_iff.1 h]

theorem construct_of_granted {ids : List Nat} {claim : Nat → Bool} (hlen : ids.length = 11) (hnodup : ids.Nodup)
    (h : ∀ p ∈ ids, claim p = true) :
    ∃ pins : PinMap, pins.ids = ids ∧
      construct ids claim = { state := { State.reset with pinMap := pins }, answer := .ok, asked := ids } := by
  obtain ⟨pins, hpins⟩ := bindPins_of_length hlen
  exact ⟨pins, bindPins_ids hpins, by simp [construct, hpins, hnodup, claimPins_granted_iff.2 h, claimPins_asked h]⟩

/-- Settles O3: the three ways the checks can go. -/
theorem constructionIsAllOrNothing : Obligations.ConstructionIsAllOrNothing := by
  refine fun ids claim => ⟨construct_of_granted, fun hfail => ?_⟩
  by_cases hdistinct : ids.length = 11 ∧ ids.Nodup
  · obtain ⟨hlen, hnodup⟩ := hdistinct
    rw [construct_of_refused hlen hnodup fun hall => hfail ⟨hlen, hnodup, hall⟩]
    exact ⟨rfl, rfl, rfl, fun hnot => absurd ⟨hlen, hnodup⟩ hnot⟩
  · rw [construct_of_not_distinct hdistinct]
    exact ⟨rfl, rfl, rfl, fun _ => rfl⟩

/-- Settles O48: the numbers of D17. -/
theorem statusCodes : Obligations.StatusCodes := ⟨rfl, fun _ => rfl, rfl, rfl, rfl, rfl⟩

end Sys2Proof.Machine
